-- ==== Sys2Proof/Word.lean ====
section
/-! DEFINITION. The words of the GV-1 (R2, R3): bytes, 64-bit words, 512-bit payloads, the identifiers of the module, and the
keyed lists in which State holds sparse collections. -/

namespace Sys2Proof

abbrev Byte := BitVec 8
abbrev Half := BitVec 16
abbrev Word32 := BitVec 32
abbrev Word := BitVec 64
/-- A token payload, a v register, a constant or a slice line: 512 bits (R184, R230). -/
abbrev Line := BitVec 512
/-- A register number 0–31 (R258). -/
abbrev Reg := BitVec 5
/-- A region id y·16 + x (R2). -/
abbrev RegionId := BitVec 7
/-- A strand number 0–3 within its region (R2). -/
abbrev StrandNo := BitVec 2
/-- A tile id ty·16 + tx within its region (R2). -/
abbrev TileId := BitVec 8
/-- A channel id (R133). -/
abbrev Chid := BitVec 16
/-- A team id (R266). -/
abbrev TeamId := BitVec 40
/-- An accounting tag (R28). -/
abbrev Atag := BitVec 12
/-- A module id (R2). -/
abbrev ModId := BitVec 13
/-- A die id dy·8 + dx (R7). -/
abbrev DieId := BitVec 5
/-- A sequence number of CMDSEQ (R268). -/
abbrev Seq := BitVec 48

/-- A keyed list: the sparse collections of State (strands, tiles, channels, ports). A key that is not listed reads as
the default its reader names. -/
structure Assoc (α : Type) where
  cells : List (Nat × α) := []
  deriving DecidableEq, Repr

namespace Assoc
variable {α : Type}

def findIn : List (Nat × α) → Nat → Option α
  | [], _ => none
  | (k', v) :: t, k => if k' = k then some v else findIn t k

def putIn : List (Nat × α) → Nat → α → List (Nat × α)
  | [], k, v => [(k, v)]
  | (k', v') :: t, k, v => if k' = k then (k, v) :: t else (k', v') :: putIn t k v

def find? (m : Assoc α) (k : Nat) : Option α := findIn m.cells k

def getD (m : Assoc α) (k : Nat) (d : α) : α := (m.find? k).getD d

def put (m : Assoc α) (k : Nat) (v : α) : Assoc α := ⟨putIn m.cells k v⟩

def erase (m : Assoc α) (k : Nat) : Assoc α := ⟨m.cells.filter (fun c => c.1 != k)⟩

def vals (m : Assoc α) : List α := m.cells.map (·.2)

def mapVals (m : Assoc α) (f : Nat → α → α) : Assoc α := ⟨m.cells.map (fun c => (c.1, f c.1 c.2))⟩

end Assoc

/-- Bits `[lo + w − 1 : lo]` of a value (R3). -/
def bits {n : Nat} (v : BitVec n) (lo w : Nat) : BitVec w := v.extractLsb' lo w

/-- The bits as a natural number. -/
def bitsN {n : Nat} (v : BitVec n) (lo w : Nat) : Nat := (v.extractLsb' lo w).toNat

/-- One bit of a value. -/
def bit {n : Nat} (v : BitVec n) (i : Nat) : Bool := v.getLsbD i

/-- A Bool as a word of the given width. -/
def ofBool {w : Nat} (b : Bool) : BitVec w := if b then 1 else 0

/-- `v` with bits `[lo + w − 1 : lo]` replaced by `x`. -/
def setBits {n : Nat} (v : BitVec n) (lo w : Nat) (x : Nat) : BitVec n :=
  BitVec.ofNat n (v.toNat - (v.toNat / 2 ^ lo % 2 ^ w) * 2 ^ lo + (x % 2 ^ w) * 2 ^ lo)

/-- Sign extension of the low `w` bits to 64 bits (sext_w of 15). -/
def sext (w : Nat) {n : Nat} (v : BitVec n) : Word := (v.setWidth w).signExtend 64

/-- Zero extension of the low `w` bits to 64 bits (zext_w of 15). -/
def zext (w : Nat) {n : Nat} (v : BitVec n) : Word := (v.setWidth w).setWidth 64

/-- The little-endian bytes of a value (R3). -/
def toBytes {n : Nat} (v : BitVec n) : Nat → List Byte
  | 0 => []
  | k + 1 => v.setWidth 8 :: toBytes (v >>> 8) k

/-- The value of little-endian bytes (R3). -/
def ofBytes : List Byte → Nat
  | [] => 0
  | b :: t => b.toNat + 256 * ofBytes t

end Sys2Proof
end

