-- ==== Sys2Proof/Syntax.lean ====
section
/-! DEFINITION. The steps of the module: one constructor for each row of spec/opcode_table.json. The first 84 are steps a strand
takes (32-bit Drover words, R232–R235, with the refinements of MTS and ST that the table lists), then stream commands
(128-bit words, R237, R238) and the steps of the engines, the Ostlers, the fabric, the firmware and the host. -/

namespace Sys2Proof

inductive Instr where
  -- register arithmetic (R260)
  | add (d a b : Reg) (z : BitVec 2)
  | sub (d a b : Reg) (z : BitVec 2)
  | and (d a b : Reg)
  | or (d a b : Reg)
  | xor (d a b : Reg)
  | sll (d a b : Reg) (z : BitVec 2)
  | srl (d a b : Reg) (z : BitVec 2)
  | sra (d a b : Reg) (z : BitVec 2)
  | slt (d a b : Reg)
  | sltw (d a b : Reg)
  | min (d a b : Reg)
  | max (d a b : Reg)
  | mul (d a b : Reg) (z : BitVec 2)
  | mulh (d a b : Reg)
  | div (d a b : Reg) (z : BitVec 2)
  | divw (d a b : Reg) (z : BitVec 2)
  | rem (d a b : Reg) (z : BitVec 2)
  | remw (d a b : Reg) (z : BitVec 2)
  -- immediates (R261)
  | addi (d a : Reg) (i : Half)
  | andi (d a : Reg) (i : Half)
  | ori (d a : Reg) (i : Half)
  | xori (d a : Reg) (i : Half)
  | slti (d a : Reg) (i : Half)
  | sltiw (d a : Reg) (i : Half)
  | slli (d a : Reg) (i : BitVec 6)
  | srli (d a : Reg) (i : BitVec 6)
  | srai (d a : Reg) (i : BitVec 6)
  | lui (d : Reg) (i : Half)
  | ori16 (d a : Reg) (i : Half)
  | ori32 (d a : Reg) (i : Half)
  | ori48 (d a : Reg) (i : Half)
  | pcadd (d : Reg) (i : Half)
  -- branches and jumps (R262, R263)
  | beq (a b : Reg) (o : Half)
  | bne (a b : Reg) (o : Half)
  | blt (a b : Reg) (o : Half)
  | bge (a b : Reg) (o : Half)
  | bltw (a b : Reg) (o : Half)
  | bgew (a b : Reg) (o : Half)
  | j (o : BitVec 26)
  | jal (o : BitVec 26)
  | jalr (d a : Reg) (i : Half)
  -- special registers (R266–R269)
  | mfs (d : Reg) (i : BitVec 12)
  | mts (a : Reg) (i : BitVec 12)
  | tvecWrite (a : Reg)
  | tframeWrite (a : Reg)
  | tstatusWrite (a : Reg)
  | gaitfloorWrite (a : Reg)
  | quotaWrite (a : Reg)
  | lrmapWrite (a : Reg) (q : BitVec 2)
  -- loads and stores (R264), the Carter start word (R166)
  | ld (z : BitVec 2) (d b : Reg) (o : Half)
  | ldWhW (d b : Reg) (o : Half)
  | ldWhH (d b : Reg) (o : Half)
  | ldWhB (d b : Reg) (o : Half)
  | st (z : BitVec 2) (s b : Reg) (o : Half)
  | carterStart (s b : Reg) (o : Half)
  -- atomics and PHASE (R270, R271)
  | amo (d a b : Reg) (c : BitVec 3) (z r q : Bool) (o : BitVec 4)
  | cas (d a b : Reg) (c : BitVec 3) (z r q : Bool)
  | phase (c : BitVec 3) (o : BitVec 2)
  -- waits (R272–R277)
  | waitge (d a b : Reg) (c : BitVec 3)
  | bar (d a : Reg) (c : BitVec 3)
  | lock (d a : Reg) (c : BitVec 3)
  | unlock (d a : Reg) (c : BitVec 3)
  | tether (d a b : Reg)
  | untether (a : Reg)
  | cwait (d a : Reg)
  -- commands, ports and messages (R278–R283)
  | cmd (d a : Reg)
  | cmdr (d a b : Reg)
  | portrd (d a b : Reg)
  | portwr (d a b : Reg)
  | enq (d a b : Reg)
  | rsend (d a b : Reg)
  | rrecv (d a b : Reg)
  -- teams (R284–R288), Farrier (R289, R290), control (R291)
  | launch (d a : Reg)
  | strand (d a b : Reg) (c : BitVec 3)
  | taskend
  | teamend
  | release (d a : Reg)
  | gait (d a b : Reg)
  | fscan (d a b : Reg)
  | fsig (d a : Reg)
  | trap (d a b : Reg)
  | rte
  | yield
  | bkpt
  -- what completes a strand's wait
  | asyncCauseDelivery (r : RegionId) (t : StrandNo)
  | waitgeSatisfied (r : RegionId) (t : StrandNo)
  | barReleaseSeen (r : RegionId) (t : StrandNo)
  | cwaitComplete (r : RegionId) (t : StrandNo)
  | portrdWake (r : RegionId) (t : StrandNo)
  -- stream commands beginning (R298–R315), with the steps of the ports they set going
  | bind (p : BitVec 5) (pat : Word)
  | feed (p : BitVec 5) (rst sc e : Bool) (n : Word32) (off : Word)
  | feedToken (r : RegionId) (p : BitVec 5)
  | drain (p : BitVec 5) (rst gs : Bool) (n : Word32) (off : Word)
  | drainToken (r : RegionId) (p : BitVec 5)
  | cfg (ctx : BitVec 2) (id : Word32) (rect : Word)
  | cfgtok (p : BitVec 5) (ch : BitVec 2) (kind : Bool) (desc : Word)
  | arm (ctx : BitVec 2) (sec : BitVec 4) (count : Word32)
  | start (ctx : BitVec 2) (rect : Word)
  | barrier
  | accrst (all : Bool) (br : BitVec 2) (chid : Chid)
  | mark (p : BitVec 5) (ty : BitVec 4) (scope : BitVec 3) (val : Word)
  | shed (clr ind : Bool) (br : BitVec 2) (chid : Chid) (sh : Word)
  | couple (br : BitVec 2) (chid : Chid) (body : BitVec 41)
  | switch (ctx : BitVec 2) (rect : Word)
  | contextSwitchComplete (r : RegionId) (tile : TileId)
  | tmpl (tidx : BitVec 10) (taddr : Word)
  | redtree (nent : BitVec 7) (tout : BitVec 12) (len : BitVec 2) (tree : BitVec 6) (table : Word)
  | close (team : TeamId) (arg : Word)
  | quiesce (team : TeamId) (arg : Word)
  | save (team : TeamId) (area : Word)
  | restore (team : TeamId) (area : Word)
  | resume (act : BitVec 2) (id : Word32) (unit : Word)
  | watchset (fidx : BitVec 5) (die : DieId) (faddr : Word)
  -- tiles, channels, gaits
  | actorFiring (r : RegionId) (tile : TileId)
  | markerStep (r : RegionId) (tile : TileId)
  | joinGapStep (r : RegionId) (tile : TileId)
  | joinEnd (r : RegionId) (tile : TileId)
  | memnodeResponse (r : RegionId) (tile : TileId)
  | recordArrive (chid : Chid) (br : BitVec 2)
  | spillMove (chid : Chid) (br : BitVec 2)
  | extRingMove (chid : Chid) (br : BitVec 2)
  | reinsTick (r : RegionId)
  | drawInterval
  | gaitSwitchComplete (r : RegionId) (tile : TileId)
  | wakeSlot (die : DieId)
  | tileSeesRelease (r : RegionId) (tile : TileId)
  -- tether table
  | tetherWalk
  | priorityPropagate
  -- Ostler, Groom, job cards, pre-emption, kill, hitches
  | ostlerSelection
  | dependenceCheck (team : TeamId)
  | imageFetch (die : DieId) (id : Word32)
  | teamLoad (team : TeamId) (root slicebase cartbase : Word)
  | retireComplete (team : TeamId)
  | taskDeal (r : RegionId)
  | jobCardEnd (team : TeamId)
  | preemptQuiescence (team : TeamId)
  | preemptLimitExpire (team : TeamId)
  | kill (team : TeamId)
  | killComplete (team : TeamId)
  | killstuck (team : TeamId)
  | hitchGate (hid : Half) (t : Word)
  | hitchReady (hid : Half) (src : ModId) (msg : BitVec 2) (named : ModId)
  | hitchLateCheck (hid : Half)
  | hitchStart (hid : Half)
  -- Carters and translation
  | carterCopyBegin (r : RegionId) (c : BitVec 3)
  | carterLine (r : RegionId) (c : BitVec 3)
  | carterComplete (r : RegionId) (c : BitVec 3)
  | pageWalkComplete (tag : Atag) (va : Word)
  -- reduction trees
  | redContributionArrive (tree : BitVec 6) (r : RegionId)
  | redNodeTimeout (tree : BitVec 6) (r : RegionId)
  -- messages, packets, links
  | c0Arrival (k : Half)
  | streamTokenMove (die : DieId) (port : BitVec 11)
  | c1PacketLand (k : Half)
  | c3AtomicPerform (k : Half)
  | c4PacketLand (k : Half)
  | packetForward (k : Half)
  | ackReceive (tag : Atag) (cls : BitVec 3) (src : BitVec 9) (body : Word × Half × Bool)
  | flitReceive (link : BitVec 4) (seq : BitVec 12) (crcOk : Bool) (hdr : BitVec 128) (addr : Line) (pay : List Line)
  | laneFail (link : BitVec 4) (lane : BitVec 2)
  | linkTrained (link : BitVec 4) (peer : ModId) (lanes : BitVec 4)
  | flstatEnable (link : BitVec 4) (en : Bool)
  | flstatCounterClear (link : BitVec 4) (val : Word)
  | moduleIdWrite (id : ModId)
  -- host
  | hostIngressWrite (host : Bool) (slot : BitVec 13) (off : BitVec 12) (data : List Byte)
  | hostBar2Store (host : Bool) (off : Word) (data : List Byte)
  | hostBar2Load (host : Bool) (off : Word) (len : BitVec 13)
  | bar0RegisterWrite (host : Bool) (off : BitVec 26) (val : Word)
  -- mailbox
  | portset (die : DieId) (port : BitVec 11) (desc : BitVec 256)
  | portget (die : DieId) (port : BitVec 11)
  | imgreg (id : Word32) (addr len : Word)
  | fwload (image : List Byte)
  | measext (i : BitVec 3) (data : List Byte)
  | attestRequest (src : BitVec 2) (nonce : BitVec 256)
  | attestReport
  | deploy
  | retire (token : List Byte)
  | dbgnonce (nonce : BitVec 256)
  | dbgunlock (device : BitVec 128) (lcs : BitVec 3) (nonce : BitVec 256) (sig : List Byte)
  | tlbinv (tag : Atag) (lo hi : Word)
  | tlbinvComplete
  | curbset (r : RegionId) (v : Word32)
  | budgetset (v : Word)
  | quotagrant (team : TeamId) (v : Word)
  | tsavearea (addr : Word)
  | plimset (us : Half)
  | hitchset (hid : Half) (members : List ModId) (lead : Half)
  | svlaunch (packet : Line)
  | dattach (r : RegionId) (t : StrandNo)
  | ddetach (r : RegionId) (t : StrandNo)
  | dstop (r : RegionId) (t : StrandNo)
  | dss (r : RegionId) (t : StrandNo) (v : Bool)
  | drun (r : RegionId) (t : StrandNo)
  -- management, power, heat, Farrier, firmware
  | i3cRequest (kind : BitVec 4) (nonce : BitVec 256)
  | coldReset
  | regionPowerUp (r : RegionId)
  | thermalSample (die : DieId) (celsius : BitVec 8)
  | thermalCooldown (die : DieId)
  | powerLoss
  | farrierPatternBoundary (die : DieId) (sig : Word32) (mismatch : Bool)
  | provisioning (device : BitVec 128) (key : BitVec 256)
  | faultForward (r : RegionId) (t : StrandNo) (unresolvable : Bool)
  | routeTableWrite (i : ModId) (valid : Bool) (primary : BitVec 4) (alternates : Half)
  | hitchPreemption (hid : Half)
  deriving DecidableEq, Repr

end Sys2Proof
end

