-- ==== Sys2Proof/WellFormed.lean ====
section
/-! DEFINITION. Which terms of Instr an encoding admits: scope codes (R236), function codes (R235), the operand values that
R292–R315 refuse at acceptance, and which refinement of MTS a register index names (R266). -/

namespace Sys2Proof

/-- The scope codes 0–4 (R236). -/
def scopeOk (c : BitVec 3) : Bool := decide (c.toNat < 5)

/-- The index of an MTS whose effect the table gives a row of its own (R266). -/
def refinedIndex (i : BitVec 12) : Bool :=
  i.toNat == 5 || i.toNat == 10 || i.toNat == 11 || i.toNat == 15 || i.toNat == 16 || (decide (32 ≤ i.toNat) && decide (i.toNat < 36))

/-- The operands of MARK that R307 admits: END, STATUS, and BARRIER with scope REGION or TEAM (R305). -/
def markOk (ty : BitVec 4) (scope : BitVec 3) : Bool :=
  ty.toNat == 2 || ty.toNat == 6 || (ty.toNat == 4 && (scope.toNat == 1 || scope.toNat == 2))

/-- The LIMIT of QUIESCE (R312): 0, or 20 to 10,000 µs. -/
def limitOk (arg : Word) : Bool :=
  bitsN arg 0 16 == 0 || (decide (20 ≤ bitsN arg 0 16) && decide (bitsN arg 0 16 ≤ 10000))

/-- Terms that an encoding admits. -/
def Instr.wellFormed : Instr → Bool
  | .amo _ _ _ c _ _ _ o => scopeOk c && decide (o.toNat < 9)
  | .cas _ _ _ c _ _ _ => scopeOk c
  | .phase c o => scopeOk c && decide (o.toNat ≠ 0)
  | .waitge _ _ _ c => scopeOk c
  | .bar _ _ c => scopeOk c
  | .lock _ _ c => scopeOk c
  | .unlock _ _ c => scopeOk c
  | .strand _ _ _ c => scopeOk c
  | .mts _ i => !refinedIndex i
  | .mark _ ty scope _ => markOk ty scope
  | .quiesce _ arg => limitOk arg
  | .resume act _ _ => decide (act.toNat ≠ 3)
  | .carterStart _ _ _ => true
  | .hostBar2Load _ _ len => decide (len.toNat ≤ 4096)
  | _ => true

/-- Commands that only a supervisor may issue (R238). -/
def Instr.supervisorCmd : Instr → Bool
  | .close _ _ | .quiesce _ _ | .save _ _ | .restore _ _ | .watchset _ _ _ => true
  | _ => false

/-- Commands that begin at acceptance and join no queue (R314). -/
def Instr.immediateCmd : Instr → Bool
  | .close _ _ | .quiesce _ _ | .save _ _ | .restore _ _ | .resume _ _ _ => true
  | _ => false

end Sys2Proof
end

