-- ==== Sys2Proof/Decode.lean ====
section
/-! DEFINITION. The decoders of the Drover words (R232–R236) and of the stream commands (R237, R238, R292–R315), and the
encoders written from the same tables. A word that no row names is refused by the name of the trap it raises. -/

namespace Sys2Proof

/-- Why a word is refused (R232, R238): the first failing check. -/
inductive DecodeFault where
  | illegalOp
  | reservedField
  | truncated
  deriving DecidableEq, Repr

abbrev Decoded := Except DecodeFault Instr

/-- Accept when the reserved fields are zero (check 2 of R232). -/
def unless0 (reserved : Nat) (i : Instr) : Decoded := if reserved = 0 then .ok i else .error .reservedField

/-- ALU, op 0x00 (R234, R260). -/
def decodeAlu (w : Word32) : Decoded :=
  let d : Reg := bits w 21 5
  let a : Reg := bits w 16 5
  let b : Reg := bits w 11 5
  let z : BitVec 2 := bits w 9 2
  match bitsN w 0 9 with
  | 0 => .ok (.add d a b z)
  | 1 => .ok (.sub d a b z)
  | 2 => unless0 z.toNat (.and d a b)
  | 3 => unless0 z.toNat (.or d a b)
  | 4 => unless0 z.toNat (.xor d a b)
  | 5 => .ok (.sll d a b z)
  | 6 => .ok (.srl d a b z)
  | 7 => .ok (.sra d a b z)
  | 8 => unless0 z.toNat (.slt d a b)
  | 9 => unless0 z.toNat (.sltw d a b)
  | 10 => unless0 z.toNat (.min d a b)
  | 11 => unless0 z.toNat (.max d a b)
  | _ => .error .illegalOp

/-- MULDIV, op 0x01 (R234, R260). -/
def decodeMuldiv (w : Word32) : Decoded :=
  let d : Reg := bits w 21 5
  let a : Reg := bits w 16 5
  let b : Reg := bits w 11 5
  let z : BitVec 2 := bits w 9 2
  match bitsN w 0 9 with
  | 0 => .ok (.mul d a b z)
  | 1 => unless0 z.toNat (.mulh d a b)
  | 2 => .ok (.div d a b z)
  | 3 => .ok (.divw d a b z)
  | 4 => .ok (.rem d a b z)
  | 5 => .ok (.remw d a b z)
  | _ => .error .illegalOp

/-- MTS: the registers whose writes the table gives rows of their own (R266). -/
def mtsOf (a : Reg) (i : BitVec 12) : Instr :=
  match i.toNat with
  | 5 => .tvecWrite a
  | 10 => .tframeWrite a
  | 11 => .tstatusWrite a
  | 15 => .gaitfloorWrite a
  | 16 => .quotaWrite a
  | 32 => .lrmapWrite a 0
  | 33 => .lrmapWrite a 1
  | 34 => .lrmapWrite a 2
  | 35 => .lrmapWrite a 3
  | _ => .mts a i

/-- A scope code 5–7 is a reserved field (R236). -/
def scopeChecked (c : BitVec 3) (reserved : Nat) (i : Instr) : Decoded :=
  if scopeOk c && reserved == 0 then .ok i else .error .reservedField

/-- The F-SYS groups 0x30–0x37 (R235). -/
def decodeSys (op : Nat) (w : Word32) : Decoded :=
  let d : Reg := bits w 21 5
  let a : Reg := bits w 16 5
  let b : Reg := bits w 11 5
  let c : BitVec 3 := bits w 8 3
  let z := bit w 6
  let r := bit w 5
  let q := bit w 4
  let o : BitVec 4 := bits w 0 4
  let fn := bitsN w 0 8
  match op with
  | 0x30 => if decide (o.toNat < 9) then scopeChecked c (bitsN w 7 1) (.amo d a b c z r q o) else .error .illegalOp
  | 0x31 => scopeChecked c (bitsN w 7 1 + o.toNat) (.cas d a b c z r q)
  | 0x32 =>
    let ord : BitVec 2 := bits w 0 2
    if ord.toNat == 0 then .error .illegalOp
    else scopeChecked c (bitsN w 2 6 + d.toNat + a.toNat + b.toNat) (.phase c ord)
  | 0x33 => match fn with
    | 0 => scopeChecked c 0 (.waitge d a b c)
    | 1 => scopeChecked c b.toNat (.bar d a c)
    | 2 => scopeChecked c b.toNat (.lock d a c)
    | 3 => scopeChecked c b.toNat (.unlock d a c)
    | 4 => unless0 c.toNat (.tether d a b)
    | 5 => unless0 (c.toNat + d.toNat + b.toNat) (.untether a)
    | 6 => unless0 (c.toNat + b.toNat) (.cwait d a)
    | _ => .error .illegalOp
  | 0x34 => match fn with
    | 0 => unless0 (c.toNat + b.toNat) (.cmd d a)
    | 1 => unless0 c.toNat (.cmdr d a b)
    | 2 => unless0 c.toNat (.portrd d a b)
    | 3 => unless0 c.toNat (.portwr d a b)
    | 4 => unless0 c.toNat (.enq d a b)
    | 5 => unless0 c.toNat (.rsend d a b)
    | 6 => unless0 c.toNat (.rrecv d a b)
    | _ => .error .illegalOp
  | 0x35 => match fn with
    | 0 => unless0 (c.toNat + b.toNat) (.launch d a)
    | 1 => scopeChecked c 0 (.strand d a b c)
    | 2 => unless0 (c.toNat + d.toNat + a.toNat + b.toNat) .taskend
    | 3 => unless0 (c.toNat + d.toNat + a.toNat + b.toNat) .teamend
    | 4 => unless0 (c.toNat + b.toNat) (.release d a)
    | 5 => unless0 c.toNat (.gait d a b)
    | _ => .error .illegalOp
  | 0x36 => match fn with
    | 0 => unless0 c.toNat (.fscan d a b)
    | 1 => unless0 (c.toNat + b.toNat) (.fsig d a)
    | _ => .error .illegalOp
  | 0x37 => match fn with
    | 0 => unless0 c.toNat (.trap d a b)
    | 1 => unless0 (c.toNat + d.toNat + a.toNat + b.toNat) .rte
    | 2 => unless0 (c.toNat + d.toNat + a.toNat + b.toNat) .yield
    | 3 => unless0 (c.toNat + d.toNat + a.toNat + b.toNat) .bkpt
    | _ => .error .illegalOp
  | _ => .error .illegalOp

/-- A Drover word: the instruction, or the first of checks 1 and 2 of R232 that fails (the op map of R233). -/
def decode (w : Word32) : Decoded :=
  let d : Reg := bits w 21 5
  let a : Reg := bits w 16 5
  let i : Half := bits w 0 16
  match bitsN w 26 6 with
  | 0x00 => decodeAlu w
  | 0x01 => decodeMuldiv w
  | 0x02 => .ok (.addi d a i)
  | 0x03 => .ok (.andi d a i)
  | 0x04 => .ok (.ori d a i)
  | 0x05 => .ok (.xori d a i)
  | 0x06 => .ok (.slti d a i)
  | 0x07 => .ok (.sltiw d a i)
  | 0x08 => unless0 (bitsN w 6 10) (.slli d a (bits w 0 6))
  | 0x09 => unless0 (bitsN w 6 10) (.srli d a (bits w 0 6))
  | 0x0A => unless0 (bitsN w 6 10) (.srai d a (bits w 0 6))
  | 0x0B => unless0 a.toNat (.lui d i)
  | 0x0C => .ok (.ori16 d a i)
  | 0x0D => .ok (.ori32 d a i)
  | 0x0E => .ok (.ori48 d a i)
  | 0x0F => unless0 a.toNat (.pcadd d i)
  | 0x10 => .ok (.beq d a i)
  | 0x11 => .ok (.bne d a i)
  | 0x12 => .ok (.blt d a i)
  | 0x13 => .ok (.bge d a i)
  | 0x14 => .ok (.bltw d a i)
  | 0x15 => .ok (.bgew d a i)
  | 0x16 => .ok (.j (bits w 0 26))
  | 0x17 => .ok (.jal (bits w 0 26))
  | 0x18 => .ok (.jalr d a i)
  | 0x19 => unless0 (a.toNat + bitsN w 12 4) (.mfs d (bits w 0 12))
  | 0x1A => unless0 (d.toNat + bitsN w 12 4) (mtsOf a (bits w 0 12))
  | 0x20 => .ok (.ld 0 d a i)
  | 0x21 => .ok (.ld 1 d a i)
  | 0x22 => .ok (.ld 2 d a i)
  | 0x23 => .ok (.ld 3 d a i)
  | 0x25 => .ok (.ldWhW d a i)
  | 0x26 => .ok (.ldWhH d a i)
  | 0x27 => .ok (.ldWhB d a i)
  | 0x28 => .ok (.st 0 d a i)
  | 0x29 => .ok (.st 1 d a i)
  | 0x2A => .ok (.st 2 d a i)
  | 0x2B => .ok (.st 3 d a i)
  | op => if decide (0x30 ≤ op) && decide (op ≤ 0x37) then decodeSys op w else .error .illegalOp

/-- A Drover instruction from its bytes, little-endian (R229). -/
def decodeBytes : List Byte → Decoded
  | b0 :: b1 :: b2 :: b3 :: _ => decode (b3 ++ b2 ++ b1 ++ b0)
  | _ => .error .truncated

/-- Whether a control-queue command's target is the control queue, 0x20 (R292). -/
def ctl (w : BitVec 128) (reserved : Nat) (i : Instr) : Decoded :=
  if bitsN w 112 8 = 0x20 && reserved == 0 then .ok i else .error .reservedField

/-- Whether a port command's target is a stream port (R292). -/
def prt (w : BitVec 128) (reserved : Nat) (i : Instr) : Decoded :=
  if decide (bitsN w 112 8 < 32) && reserved == 0 then .ok i else .error .reservedField

/-- A stream command (R237, R238): the command, or the first failing check of acceptance. -/
def decodeCmd (w : BitVec 128) : Decoded :=
  let p : BitVec 5 := bits w 112 5
  let lo : Word := bits w 0 64
  let arg32 : Word32 := bits w 64 32
  let team : TeamId := bits w 64 40
  let ctx : BitVec 2 := bits w 104 2
  let chid : Chid := bits w 64 16
  match bitsN w 120 8 with
  | 0x01 => prt w (bitsN w 64 48) (.bind p lo)
  | 0x02 => prt w (bitsN w 96 8 + bitsN w 107 5) (.feed p (bit w 106) (bit w 105) (bit w 104) arg32 lo)
  | 0x03 => prt w (bitsN w 96 8 + bitsN w 105 1 + bitsN w 107 5) (.drain p (bit w 106) (bit w 104) arg32 lo)
  | 0x04 => ctl w (bitsN w 96 8 + bitsN w 106 6) (.cfg ctx arg32 lo)
  | 0x05 => prt w (bitsN w 64 40 + bitsN w 107 5) (.cfgtok p (bits w 105 2) (bit w 104) lo)
  | 0x06 => ctl w (bitsN w 0 64 + bitsN w 96 8 + bitsN w 110 2) (.arm (bits w 108 2) (bits w 104 4) arg32)
  | 0x07 => ctl w (bitsN w 64 40 + bitsN w 106 6) (.start ctx lo)
  | 0x08 => ctl w (bitsN w 0 112) .barrier
  | 0x09 => ctl w (bitsN w 0 64 + bitsN w 80 24 + bitsN w 107 5) (.accrst (bit w 106) ctx chid)
  | 0x0A =>
    let ty : BitVec 4 := bits w 104 4
    let scope : BitVec 3 := bits w 96 3
    prt w (bitsN w 64 32 + bitsN w 99 5 + bitsN w 108 4 + (if markOk ty scope then 0 else 1)) (.mark p ty scope lo)
  | 0x0B => ctl w (bitsN w 82 22 + bitsN w 106 6) (.shed (bit w 105) (bit w 104) (bits w 80 2) chid lo)
  | 0x0C => ctl w (bitsN w 82 30 + bitsN w 41 23) (.couple (bits w 80 2) chid (bits w 0 41))
  | 0x0D => ctl w (bitsN w 64 40 + bitsN w 106 6) (.switch ctx lo)
  | 0x0E => ctl w (bitsN w 74 38) (.tmpl (bits w 64 10) lo)
  | 0x0F => ctl w (bitsN w 91 21) (.redtree (bits w 84 7) (bits w 72 12) (bits w 70 2) (bits w 64 6) lo)
  | 0x10 => ctl w (bitsN w 104 8) (.close team lo)
  | 0x11 => ctl w (bitsN w 104 8 + (if limitOk lo then 0 else 1)) (.quiesce team lo)
  | 0x12 => ctl w (bitsN w 104 8) (.save team lo)
  | 0x13 => ctl w (bitsN w 104 8) (.restore team lo)
  | 0x14 => ctl w (bitsN w 96 8 + bitsN w 106 6 + (if bitsN w 104 2 = 3 then 1 else 0)) (.resume ctx arg32 lo)
  | 0x15 => ctl w (bitsN w 74 38) (.watchset (bits w 64 5) (bits w 69 5) lo)
  | _ => .error .illegalOp

/-- What the decoder reads from a word whose bits are `w`: 32 bits are a Drover word, 128 bits a stream command (R229). -/
def decodeTableWord (nbits w : Nat) : Option Instr :=
  if nbits ≤ 32 then (decode (BitVec.ofNat 32 w)).toOption
  else if nbits ≤ 128 then (decodeCmd (BitVec.ofNat 128 w)).toOption
  else none

/-! Encoders, from the layouts of R232 and R237. -/

/-- F-REG. -/
def fReg (op : BitVec 6) (d a b : Reg) (z : BitVec 2) (fn : BitVec 9) : Word32 := op ++ d ++ a ++ b ++ z ++ fn
/-- F-IMM, F-MEM and F-BR. -/
def fImm (op : BitVec 6) (d a : Reg) (i : Half) : Word32 := op ++ d ++ a ++ i
/-- F-JMP. -/
def fJmp (op : BitVec 6) (o : BitVec 26) : Word32 := op ++ o
/-- F-SYS. -/
def fSys (op : BitVec 6) (d a b : Reg) (c : BitVec 3) (fn : BitVec 8) : Word32 := op ++ d ++ a ++ b ++ c ++ fn

/-- The word of a Drover instruction; the other steps have none. A Carter start is written as the ST.D it is (R166), so its
term has no word of its own. -/
def encode : Instr → Option Word32
  | .add d a b z => some (fReg 0 d a b z 0)
  | .sub d a b z => some (fReg 0 d a b z 1)
  | .and d a b => some (fReg 0 d a b 0 2)
  | .or d a b => some (fReg 0 d a b 0 3)
  | .xor d a b => some (fReg 0 d a b 0 4)
  | .sll d a b z => some (fReg 0 d a b z 5)
  | .srl d a b z => some (fReg 0 d a b z 6)
  | .sra d a b z => some (fReg 0 d a b z 7)
  | .slt d a b => some (fReg 0 d a b 0 8)
  | .sltw d a b => some (fReg 0 d a b 0 9)
  | .min d a b => some (fReg 0 d a b 0 10)
  | .max d a b => some (fReg 0 d a b 0 11)
  | .mul d a b z => some (fReg 1 d a b z 0)
  | .mulh d a b => some (fReg 1 d a b 0 1)
  | .div d a b z => some (fReg 1 d a b z 2)
  | .divw d a b z => some (fReg 1 d a b z 3)
  | .rem d a b z => some (fReg 1 d a b z 4)
  | .remw d a b z => some (fReg 1 d a b z 5)
  | .addi d a i => some (fImm 0x02 d a i)
  | .andi d a i => some (fImm 0x03 d a i)
  | .ori d a i => some (fImm 0x04 d a i)
  | .xori d a i => some (fImm 0x05 d a i)
  | .slti d a i => some (fImm 0x06 d a i)
  | .sltiw d a i => some (fImm 0x07 d a i)
  | .slli d a i => some (fImm 0x08 d a ((0 : BitVec 10) ++ i))
  | .srli d a i => some (fImm 0x09 d a ((0 : BitVec 10) ++ i))
  | .srai d a i => some (fImm 0x0A d a ((0 : BitVec 10) ++ i))
  | .lui d i => some (fImm 0x0B d 0 i)
  | .ori16 d a i => some (fImm 0x0C d a i)
  | .ori32 d a i => some (fImm 0x0D d a i)
  | .ori48 d a i => some (fImm 0x0E d a i)
  | .pcadd d i => some (fImm 0x0F d 0 i)
  | .beq a b o => some (fImm 0x10 a b o)
  | .bne a b o => some (fImm 0x11 a b o)
  | .blt a b o => some (fImm 0x12 a b o)
  | .bge a b o => some (fImm 0x13 a b o)
  | .bltw a b o => some (fImm 0x14 a b o)
  | .bgew a b o => some (fImm 0x15 a b o)
  | .j o => some (fJmp 0x16 o)
  | .jal o => some (fJmp 0x17 o)
  | .jalr d a i => some (fImm 0x18 d a i)
  | .mfs d i => some (fImm 0x19 d 0 ((0 : BitVec 4) ++ i))
  | .mts a i => some (fImm 0x1A 0 a ((0 : BitVec 4) ++ i))
  | .tvecWrite a => some (fImm 0x1A 0 a 5)
  | .tframeWrite a => some (fImm 0x1A 0 a 10)
  | .tstatusWrite a => some (fImm 0x1A 0 a 11)
  | .gaitfloorWrite a => some (fImm 0x1A 0 a 15)
  | .quotaWrite a => some (fImm 0x1A 0 a 16)
  | .lrmapWrite a q => some (fImm 0x1A 0 a ((8 : BitVec 14) ++ q))
  | .ld z d b o => some (fImm ((8 : BitVec 4) ++ z) d b o)
  | .ldWhW d b o => some (fImm 0x25 d b o)
  | .ldWhH d b o => some (fImm 0x26 d b o)
  | .ldWhB d b o => some (fImm 0x27 d b o)
  | .st z s b o => some (fImm ((10 : BitVec 4) ++ z) s b o)
  | .amo d a b c z r q o =>
    some (fSys 0x30 d a b c ((0 : BitVec 1) ++ BitVec.ofBool z ++ BitVec.ofBool r ++ BitVec.ofBool q ++ o))
  | .cas d a b c z r q =>
    some (fSys 0x31 d a b c ((0 : BitVec 1) ++ BitVec.ofBool z ++ BitVec.ofBool r ++ BitVec.ofBool q ++ (0 : BitVec 4)))
  | .phase c o => some (fSys 0x32 0 0 0 c ((0 : BitVec 6) ++ o))
  | .waitge d a b c => some (fSys 0x33 d a b c 0)
  | .bar d a c => some (fSys 0x33 d a 0 c 1)
  | .lock d a c => some (fSys 0x33 d a 0 c 2)
  | .unlock d a c => some (fSys 0x33 d a 0 c 3)
  | .tether d a b => some (fSys 0x33 d a b 0 4)
  | .untether a => some (fSys 0x33 0 a 0 0 5)
  | .cwait d a => some (fSys 0x33 d a 0 0 6)
  | .cmd d a => some (fSys 0x34 d a 0 0 0)
  | .cmdr d a b => some (fSys 0x34 d a b 0 1)
  | .portrd d a b => some (fSys 0x34 d a b 0 2)
  | .portwr d a b => some (fSys 0x34 d a b 0 3)
  | .enq d a b => some (fSys 0x34 d a b 0 4)
  | .rsend d a b => some (fSys 0x34 d a b 0 5)
  | .rrecv d a b => some (fSys 0x34 d a b 0 6)
  | .launch d a => some (fSys 0x35 d a 0 0 0)
  | .strand d a b c => some (fSys 0x35 d a b c 1)
  | .taskend => some (fSys 0x35 0 0 0 0 2)
  | .teamend => some (fSys 0x35 0 0 0 0 3)
  | .release d a => some (fSys 0x35 d a 0 0 4)
  | .gait d a b => some (fSys 0x35 d a b 0 5)
  | .fscan d a b => some (fSys 0x36 d a b 0 0)
  | .fsig d a => some (fSys 0x36 d a 0 0 1)
  | .trap d a b => some (fSys 0x37 d a b 0 0)
  | .rte => some (fSys 0x37 0 0 0 0 1)
  | .yield => some (fSys 0x37 0 0 0 0 2)
  | .bkpt => some (fSys 0x37 0 0 0 0 3)
  | _ => none

/-- The layout of R237. -/
def fCmd (op tgt flags cls : Byte) (arg32 : Word32) (arg64 : Word) : BitVec 128 := op ++ tgt ++ flags ++ cls ++ arg32 ++ arg64

/-- The target byte of a stream port (R292). -/
def tgtPort (p : BitVec 5) : Byte := (0 : BitVec 3) ++ p

/-- The flags byte with three bits at [106:104]. -/
def flags3 (c b a : Bool) : Byte := (0 : BitVec 5) ++ BitVec.ofBool c ++ BitVec.ofBool b ++ BitVec.ofBool a

/-- The class byte and arg32 of a command that names a team (R312). -/
def fTeam (op : Byte) (team : TeamId) (arg : Word) : BitVec 128 := op ++ (0x20 : Byte) ++ (0 : Byte) ++ team ++ arg

/-- The 128-bit word of a stream command; the other steps have none. -/
def encodeCmd : Instr → Option (BitVec 128)
  | .bind p pat => some (fCmd 0x01 (tgtPort p) 0 0 0 pat)
  | .feed p rst sc e n off => some (fCmd 0x02 (tgtPort p) (flags3 rst sc e) 0 n off)
  | .drain p rst gs n off => some (fCmd 0x03 (tgtPort p) (flags3 rst false gs) 0 n off)
  | .cfg ctx id rect => some (fCmd 0x04 0x20 ((0 : BitVec 6) ++ ctx) 0 id rect)
  | .cfgtok p ch kind desc => some (fCmd 0x05 (tgtPort p) ((0 : BitVec 5) ++ ch ++ BitVec.ofBool kind) 0 0 desc)
  | .arm ctx sec count => some (fCmd 0x06 0x20 ((0 : BitVec 2) ++ ctx ++ sec) 0 count 0)
  | .start ctx rect => some (fCmd 0x07 0x20 ((0 : BitVec 6) ++ ctx) 0 0 rect)
  | .barrier => some (fCmd 0x08 0x20 0 0 0 0)
  | .accrst all br chid => some (fCmd 0x09 0x20 ((0 : BitVec 5) ++ BitVec.ofBool all ++ br) 0 ((0 : Half) ++ chid) 0)
  | .mark p ty scope val => some (fCmd 0x0A (tgtPort p) ((0 : BitVec 4) ++ ty) ((0 : BitVec 5) ++ scope) 0 val)
  | .shed clr ind br chid sh =>
    some (fCmd 0x0B 0x20 (flags3 false clr ind) 0 ((0 : BitVec 14) ++ br ++ chid) sh)
  | .couple br chid body => some (fCmd 0x0C 0x20 0 0 ((0 : BitVec 14) ++ br ++ chid) ((0 : BitVec 23) ++ body))
  | .switch ctx rect => some (fCmd 0x0D 0x20 ((0 : BitVec 6) ++ ctx) 0 0 rect)
  | .tmpl tidx taddr => some (fCmd 0x0E 0x20 0 0 ((0 : BitVec 22) ++ tidx) taddr)
  | .redtree nent tout len tree table =>
    some (fCmd 0x0F 0x20 0 0 ((0 : BitVec 5) ++ nent ++ tout ++ len ++ tree) table)
  | .close team arg => some (fTeam 0x10 team arg)
  | .quiesce team arg => some (fTeam 0x11 team arg)
  | .save team arg => some (fTeam 0x12 team arg)
  | .restore team arg => some (fTeam 0x13 team arg)
  | .resume act id unit => some (fCmd 0x14 0x20 ((0 : BitVec 6) ++ act) 0 id unit)
  | .watchset fidx die faddr => some (fCmd 0x15 0x20 0 0 ((0 : BitVec 22) ++ die ++ fidx) faddr)
  | _ => none

end Sys2Proof
end

