-- ==== Sys2Proof/Config.lean ====
section
/-! DEFINITION. What one implementation fixes and what the spec leaves free: constants of the part (R1), and opaque functions
for the secrets and inputs whose values no rule gives. Nothing in Lean can see the value of an opaque constant. -/

namespace Sys2Proof.Config

/-- Regions of a module (R1). -/
def regions : Nat := 128
/-- Tiles of a region (R1). -/
def tilesPerRegion : Nat := 256
/-- Bytes of HBM: physical addresses below 2 TiB (R157). -/
def hbmBytes : Nat := 2 ^ 41
/-- Bytes of a tile slice (R111). -/
def sliceBytes : Nat := 131072
/-- Entries of the tether table on each die (R76). -/
def tetherPerDie : Nat := 512
/-- Entries of a die's fault queue (R162). -/
def faultQueueEntries : Nat := 512

/-- Whether the signature of a firmware image (R51) checks against the fused Palulada key: the key is not given. -/
opaque firmwareSigned : List Byte → Bool
/-- The security version a firmware image carries (R51): its place in the image is not given. -/
opaque firmwareSvn : List Byte → BitVec 6
/-- The signed manifest of a firmware image that MEAS1 is extended with (R53). -/
opaque firmwareManifest : List Byte → List Byte
/-- Whether a debug-unlock or retirement token's signature checks (R56, R57): the key is not given. -/
opaque tokenSigned : List Byte → List Byte → Bool
/-- Byte n of the SLH-DSA-SHAKE-256f signature of a report body by the device identity key (R55): the key is not given. -/
opaque signatureByte : BitVec 256 → List Byte → Nat → Byte
/-- The signature of a report body (R55): 49,856 bytes. -/
def reportSignature (key : BitVec 256) (body : List Byte) : List Byte := (List.range 49856).map (signatureByte key body)
/-- The digest of the identity public key of the key generated from fused entropy (R55). -/
opaque identityDigest : BitVec 256 → List Byte
/-- The n-th free 512-bit value: a result the spec does not state. -/
opaque freeLine : Nat → Line
/-- How a request token names its access (R159): whether it writes, the address, and the data; the layout is not given. -/
opaque memnodeWrites : Line → Bool
opaque memnodeAddr : Line → Word
opaque memnodeData : Line → Line
/-- The n-th free 64-bit value: what firmware or the world supplies where no rule gives a value (log 6). -/
opaque freeWord : Nat → Word
/-- Packets that a router's C4 queue for an output holds (R27): the capacity is not given. -/
opaque c4QueueLimit : Nat
/-- Where the consumer of a remote branch is (R18, R142): module, die, its channel id there, and the address of its buffer; a channel
descriptor does not name them (log 52). -/
opaque egressTo : Nat → Nat → ModId × DieId × Half × Word
/-- The magic word of a save image's header (R109): its value is not given. -/
opaque saveMagic : Word

/-- The type byte of an extension of MEAS0–MEAS2 and MEAS4–MEAS7 (R53): only that of MEAS3 is given. DESIGN CHOICE (log 51): one type byte
for each register, whatever the event. -/
opaque measType : Nat → Byte
/-- What the boot ROM extends MEAS2 with (R53): the lifecycle state's code and the fuse digest; the layout is not given. The fuses: the
anti-rollback count, the device id, the identity seed, and whether the DEBUG_OPEN fuse is blown. -/
opaque bootEvent : Nat → Nat → BitVec 128 → BitVec 256 → Bool → List Byte
/-- The debug-open event of a boot (R58), and of an unlock with a token's digest (R57): the layout is not given. -/
opaque debugEvent : Option (List Byte) → List Byte

end Sys2Proof.Config
end

