-- ==== Sys2Proof/Machine/State.lean ====
section
/-! DEFINITION. The state of the module as plain data (INVENTORY.md, '## State'), its reset (R49, R266), the outcomes of a step
and the schedule that says which agent moves next (log 4). -/

namespace Sys2Proof.Machine

/-- Why the machine stops. -/
inductive Fault where
  /-- Raised by `step` when the power of the module has been cut (R108, R109) and no cold reset comes: nothing runs. Safe: the hardware is off. -/
  | poweredOff
  deriving DecidableEq, Repr

/-- Why a step has no meaning. -/
inductive Refusal where
  /-- Raised by an arm of `exec` whose instruction has no meaning yet. Safe: nothing is claimed of it. -/
  | notModelled (mnemonic : String)
  deriving DecidableEq, Repr

/-! ### Strands -/

/-- The run status of a strand (R68). -/
inductive Run where
  | idle | ready | waiting | stopped
  deriving DecidableEq, Repr

/-- Why a strand that would be READY is not (R68, R259, R264, R283, R286). -/
inductive Hold where
  /-- a TLB miss of this tag and 64 KiB page (R161) -/
  | walk (tag : Atag) (page : Nat)
  /-- a Carter channel whose queue of starts is full (R166) -/
  | carter (c : BitVec 3)
  /-- an RSEND two epochs ahead of its node (R283) -/
  | rsend (tree : BitVec 6)
  /-- an RRECV whose result has not arrived (R283) -/
  | rrecv (tree : BitVec 6)
  /-- TASKEND waiting for the strands its task started (R286) -/
  | taskend
  /-- a cause handed to the firmware (R204) -/
  | firmware
  /-- a cause whose team is being killed (R206, R215) -/
  | killed
  /-- gated by CLOSE (R216) -/
  | closed
  /-- held until the strand's accesses to other modules are acknowledged (R173, R176, R177) -/
  | sent
  /-- a trap whose frame waits for the responses of requests already sent (R209) -/
  | response
  /-- a strand of a team that has not been started (R67) -/
  | start
  deriving DecidableEq, Repr

/-- What a WAITING strand waits for (R79). -/
inductive WaitOn where
  | bar (scope : BitVec 3) (epoch : Nat) (own : Nat)
  | lock (key : Nat)
  | queue (port : Nat)
  | counter (key : Nat) (target : Word)
  | cwait (num : Nat)
  deriving DecidableEq, Repr

/-- A waiting instruction: what it waits on, its word and operands for a WAIT entry (R209), and what it does when satisfied. -/
structure Wait where
  on : WaitOn
  dst : Reg := 0
  pc : Word := 0
  insn : Word32 := 0
  opa : Word := 0
  opb : Word := 0
  /-- the wait has met its condition and completes at its event -/
  met : Option Word := none
  /-- a watch hit of its first access (R164) -/
  watch : Option Word := none
  deriving DecidableEq, Repr

/-- A replay entry (R209). -/
structure Entry where
  pc : Word := 0
  insn : Word32 := 0
  st : BitVec 3 := 0
  opa : Word := 0
  opb : Word := 0
  /-- its token has been charged (R104): it has issued before and was held -/
  paid : Bool := false
  deriving DecidableEq, Repr

/-- An async cause, or one handed to the firmware or the debugger (R204, R212). -/
structure Cause where
  code : Byte := 0
  tval : Word := 0
  tseq : Nat := 0
  asite : Word := 0
  deriving DecidableEq, Repr

/-- A byte of a strand's snapshot (R173): the value bound at the home, whether a load or fetch of this phase has returned it, and
the strand's own latest store since its last acquire. -/
structure Snap where
  mem : Option Byte := none
  read : Bool := false
  own : Option Byte := none
  /-- value that a fetch has bound while the strand's own store was hidden from it -/
  fet : Option Byte := none
  deriving DecidableEq, Repr

/-- A store issued and not yet performed (R174). -/
structure Pending where
  key : Nat := 0
  bytes : List Byte := []
  /-- sent to another module over C3 and not acknowledged (R157) -/
  sent : Bool := false
  /-- a PHASE.ACQ has followed it: the strand's fetches see it (R173) -/
  acq : Bool := false
  deriving DecidableEq, Repr

/-- A store that its strand has released at a scope below MODULE and that is not yet performed (R172). -/
structure Part where
  strand : Nat := 0
  scope : Nat := 0
  key : Nat := 0
  bytes : List Byte := []
  /-- a PHASE.ACQ of its strand has followed it (R173) -/
  acq : Bool := false
  deriving DecidableEq, Repr

/-- A load or atomic sent to another module (R26, R157, R209): its entry with captured operands, its home, and whether it has an
effect there, orders later instructions, or has its response. -/
structure Req where
  entry : Entry := {}
  key : Nat := 0
  bytes : Nat := 8
  effect : Bool := false
  sync : Bool := false
  answered : Bool := false
  /-- its home has refused it (R158) -/
  denied : Bool := false
  /-- the strand no longer awaits it: it stands as a REISSUE entry of a frame -/
  gone : Bool := false
  /-- the value that a COMPLETE entry of the frame being formed holds -/
  val : Option Word := none
  /-- operand b of the WAIT entry that it leaves instead: it found at its home that it must wait (R209) -/
  waits : Option Word := none
  deriving DecidableEq, Repr

/-- A sync trap whose frame waits for responses (R209): the cause, the pcs, the entries behind the requests, and where it goes. -/
structure Due where
  cause : Cause := {}
  tpc : Word := 0
  rpc : Word := 0
  ents : List Entry := []
  knot : List Word := []
  /-- 0 the team, 1 the firmware, 2 the debugger, 3 CLOSE -/
  dest : Nat := 0
  deriving DecidableEq, Repr

/-- The task a strand 0 runs (R72, R73): its index, attempt, whether it is committed, and the rest of its chunk. -/
structure Task where
  index : Nat := 0
  attempt : Nat := 0
  committed : Bool := false
  rest : Nat := 0
  deriving DecidableEq, Repr

/-- The special registers of a strand (R207, R266). -/
structure Spr where
  tvec : Word := 0
  tframe : Word := 0
  tcause : Word := 0
  tval : Word := 0
  tpc : Word := 0
  tseq : Word := 0
  knotrec : Word := 0
  inh : Bool := false
  svm : Bool := false
  tfe : Bool := false
  ss : Bool := false
  dba : Bool := false
  prio : BitVec 3 := 0
  eprio : BitVec 3 := 0
  replayn : Word32 := 0
  deriving DecidableEq, Repr

/-- What a strand sees of memory and what it has not yet made visible (R73, R173, R174). -/
structure View where
  snap : Assoc Snap := {}
  stores : List Pending := []
  /-- the schedule delays this strand's stores (log 4) -/
  defer : Bool := false
  deriving DecidableEq, Repr

/-- The traps of a strand: pending async causes, the re-injection queue, the frame's hardware copy, what the firmware holds. -/
structure Traps where
  pend : List Cause := []
  /-- the last frame write faulted: delivery waits for an MTS to TFRAME or a TLBINV (R212) -/
  blocked : Bool := false
  /-- replay entries still to be re-injected (R210) -/
  replay : List Entry := []
  /-- the strand goes IDLE after them: the frame's RPC was 0 (R210) -/
  idleAfter : Bool := false
  /-- the instruction at the pc has been charged: it is one that leaves no entry, and it was held (R104, R259) -/
  paid : Bool := false
  /-- address of the RTE that re-injects them -/
  rtePc : Word := 0
  /-- the 80 words of the frame as last written (R208, R225) -/
  frame : List Word := []
  /-- a cause with the firmware or the debugger, with the pc it names -/
  fw : Option (Cause × Word) := none
  /-- a STEP is due before the handler's first instruction (R221) -/
  stepDue : Bool := false
  /-- a watch hit of the frame's own write, raised before the next instruction (R164) -/
  watchDue : Option Word := none
  /-- DSTOP has asked for the strand: it stops at its next instruction boundary (R224) -/
  stopDue : Bool := false
  /-- a trap raised and not yet delivered -/
  due : Option Due := none
  deriving DecidableEq, Repr

structure Strand where
  regs : Vector Word 32 := Vector.replicate 32 0
  pc : Word := 0
  run : Run := .idle
  hold : Option Hold := none
  /-- 64 KiB page whose walk ended in PAGE_FAULT for the access that waits for it (R161) -/
  walkBad : Option Nat := none
  wait : Option Wait := none
  spr : Spr := {}
  traps : Traps := {}
  view : View := {}
  /-- requests sent to other modules and not finished, in program order -/
  sent : List Req := []
  /-- entries of the command log by number mod 1024 (R211, R226) -/
  cmdlog : Assoc (Nat × Word) := {}
  /-- the last 16 register writes, newest first (R214) -/
  oplog : List (Reg × Word) := []
  /-- registers with bad parity: true when the replayed read fails again (R214) -/
  badpar : List (Reg × Bool) := []
  /-- C0 messages sent and not acknowledged (R22) -/
  c0 : Nat := 0
  /-- next epoch per reduction tree (R283) -/
  epochs : Assoc Nat := {}
  task : Option Task := none
  /-- the strand belongs to the task of its region's strand 0 (R285) -/
  inTask : Bool := false
  /-- lines of the task write buffer: address of the line, bytes and mask (R73), kept with strand 0 -/
  wbuf : List (Nat × List (Option Byte)) := []
  /-- the strand that stored each byte of the buffer, by home key -/
  wown : Assoc Nat := {}
  /-- has executed TEAMEND (R69) -/
  ended : Bool := false
  /-- gives up its next issue turn (R68, R291) -/
  yielded : Bool := false
  deriving DecidableEq, Repr

/-! ### Regions -/

/-- A command in a queue (R124): its number, word, the strand and pc that issued it, and whether it has begun. -/
structure QCmd where
  num : Nat := 0
  word : BitVec 128 := 0
  strand : StrandNo := 0
  begun : Bool := false
  /-- it is a load that executes: begun and not complete (R227) -/
  loading : Bool := false
  deriving DecidableEq, Repr

/-- An access pattern (R297). -/
structure Pattern where
  base : Word := 0
  counts : List Nat := []
  strides : List Word32 := []
  lsel : Nat := 0
  deriving DecidableEq, Repr

/-- A parked engine unit: the fault entry's words 0 and 1 (R162), the number and id it names, and the access to reissue. -/
structure Park where
  va : Word := 0
  cause : Byte := 0
  kind : BitVec 2 := 0
  num : Nat := 0
  /-- the malformed bit and the level of its fault entry (R162) -/
  mal : Bool := false
  lvl : Nat := 0
  deriving DecidableEq, Repr

/-- A FEED or DRAIN running on a port (R299, R300). -/
structure Running where
  num : Nat := 0
  drain : Bool := false
  /-- tokens left; none: until the pattern wraps or an END comes -/
  left : Option Nat := none
  off : Word := 0
  sc : Bool := false
  e : Bool := false
  gs : Bool := false
  deriving DecidableEq, Repr

/-- A stream port (R123, R297, R298). -/
structure Port where
  pat : Option Pattern := none
  pos : List Nat := []
  wrap : Bool := false
  eos : Bool := true
  run : Option Running := none
  park : Option Park := none
  /-- place in the record being emitted or taken -/
  place : Nat := 0
  /-- tokens of the record being emitted by PORTWR or FEED -/
  part : List (Line × BitVec 24) := []
  lastNum : Nat := 0
  deriving DecidableEq, Repr

/-- A section of a context (R121, R122). -/
structure Sect where
  armed : Bool := false
  count : Nat := 0
  /-- number of the ARM that armed it, 0 when the image did -/
  num : Nat := 0
  /-- number of the latest ARM ever, for TSEQ (R211) -/
  last : Nat := 0
  done : Bool := false
  /-- the ARM is pending retirement -/
  waits : Bool := false
  deriving DecidableEq, Repr

/-- A phase record in clocks (R227): the words 0–7, with the clocks it is computed from. -/
structure Phase where
  seq : Nat := 0
  load : Nat := 0
  start : Nat := 0
  firstFire : Option Nat := none
  lastDone : Option Nat := none
  stop : Option Nat := none
  fires : Nat := 0
  draw : Nat := 0
  deriving DecidableEq, Repr

/-- A queued Carter start (R166): start word, number, strand. -/
structure CStart where
  word : Word := 0
  num : Nat := 0
  strand : StrandNo := 0
  deriving DecidableEq, Repr

/-- A copy in progress (R169): its start, the template read when it left the queue, lines written and acknowledged. -/
structure Copy where
  start : CStart := {}
  tmpl : List Word := []
  /-- destination bytes issued -/
  issued : Nat := 0
  /-- lines of other modules not yet acknowledged, in pattern order: the destination byte each begins at -/
  flying : List Nat := []
  gen : Nat := 0
  susp : Bool := false
  /-- its completion add is on its way to another module, or was refused there (R25, R158) -/
  adding : Bool := false
  denied : Bool := false
  park : Option Park := none
  /-- lines that their home has refused (R158), and the one that RESUME sends again -/
  refused : List Nat := []
  again : Option Nat := none
  /-- a watch hit of the destination, posted once the one of the source is resumed (R164) -/
  more : Option Word := none
  deriving DecidableEq, Repr

/-- A Carter channel of a region (R165–R170). -/
structure Carter where
  queue : List CStart := []
  cur : Option Copy := none
  /-- lines of copies that have ended and are not acknowledged: copy generation and destination byte (R20) -/
  old : List (Nat × Nat) := []
  lost : Nat := 0
  gen : Nat := 0
  lfsr : Word32 := 1
  deriving DecidableEq, Repr

/-- A barrier's current epoch (R273). -/
structure Barrier where
  epoch : Nat := 0
  arrived : Nat := 0
  n : Option Nat := none
  /-- member counts of the epochs released, the latest first -/
  ns : List Nat := []
  deriving DecidableEq, Repr

/-- Commands and numbers of a region (R124, R268). -/
structure Cmds where
  seq : Nat := 1
  /-- numbers given and not yet retired -/
  live : List Nat := []
  queues : Assoc (List QCmd) := {}
  /-- commands that began at acceptance and have not retired (R314) -/
  atOnce : List QCmd := []
  deriving DecidableEq, Repr

/-- The draw pool of a region (R102, R103). -/
structure Pool where
  tokens : Int := 0
  grant : Nat := 0
  drawn : Bool := false
  /-- an over-grant firing has left it negative, and it has not been positive since (R102) -/
  debt : Bool := false
  /-- the tile that drew last -/
  last : Nat := 255
  curb : Nat := 6000000
  deriving DecidableEq, Repr

structure Region where
  cmds : Cmds := {}
  ports : Assoc Port := {}
  /-- sections by context·16 + section -/
  sects : Assoc Sect := {}
  /-- SECTION_DONE markers in the control queue (R122) -/
  ctrlq : List Line := []
  phases : Assoc (List Phase) := {}
  /-- counter block by offset (R228) -/
  ctrs : Assoc Nat := {}
  pool : Pool := {}
  carters : Assoc Carter := {}
  barrier : Barrier := {}
  /-- GAITFLOOR.PROG (R95) -/
  prog : BitVec 2 := 1
  /-- coupling interval 2^n (R150), and the clock of START -/
  civ : Nat := 8
  /-- contexts that a START of the whole region has set STARTED on tiles that hold none (R131) -/
  started : List Nat := []
  startClock : Nat := 0
  /-- clock of the last Reins tick -/
  tick : Nat := 0
  up : Bool := false
  /-- LRMAP field (R269) -/
  lr : BitVec 2 := 0
  /-- held out of placement by a thermal warn (R108) -/
  hot : Bool := false
  /-- strand that issued last, and the clock of that issue (R68) -/
  turn : StrandNo := 3
  issued : Option Nat := none
  deriving DecidableEq, Repr

/-! ### Tiles -/

/-- The join, window and credit state of an actor. -/
structure Actor where
  hdr : BitVec 128 := 0
  weight : Nat := 0
  credit : Int := 0
  remaining : Nat := 0
  halted : Bool := false
  park : Option Park := none
  /-- parked by JOIN_MISMATCH or SPARSE_META, with the cause -/
  trapped : Option Cause := none
  /-- that cause found 16 pending and is still to be raised (R212) -/
  owed : Bool := false
  /-- SKIP was asked of the parked position (R313) -/
  skip : Bool := false
  ja : Nat := 0
  jb : Nat := 0
  dropped : Bool := false
  ww : Nat := 0
  nrec : Nat := 0
  ngap : Nat := 0
  wg : Bool := false
  deriving DecidableEq, Repr

/-- A configuration context of a tile (R112). -/
structure Ctx where
  actors : Assoc Actor := {}
  fire : Assoc Word := {}
  consts : Assoc Line := {}
  ownIn : Byte := 0
  ownOut : Byte := 0
  started : Bool := false
  /-- clock of its START (R131) -/
  startAt : Option Nat := none
  /-- barrier hold: scope and epoch (R97, R305) -/
  hold : Option (BitVec 3 × Nat) := none
  startNum : Nat := 0
  /-- actors ready at the context's last firing opportunity (R117) -/
  ready : List Nat := []
  deriving DecidableEq, Repr

structure Level where
  i : Nat := 0
  count : Nat := 0
  stride : Word32 := 0
  deriving DecidableEq, Repr

/-- A counter chain (R119). -/
structure Chain where
  base : Word32 := 0
  lsel : Nat := 0
  wrap : Bool := false
  levels : List Level := []
  deriving DecidableEq, Repr

/-- A memory-node request (R159): address, write data (none: a read), actor, context, and the atomic or size. -/
structure MReq where
  ctx : Nat := 0
  actor : Nat := 0
  va : Word := 0
  data : Option Line := none
  side : BitVec 24 := 0
  num : Nat := 0
  deriving DecidableEq, Repr

/-- The gait of a tile and its switch (R90–R99). -/
structure GaitSt where
  cur : BitVec 2 := 0
  req : BitVec 2 := 0
  /-- switch in progress: target and the first clock in the new gait -/
  sw : Option (BitVec 2 × Nat) := none
  /-- waits for a wake slot -/
  wake : Bool := false
  /-- STABLED_TARGET was posted in this stay in STABLED (R98) -/
  posted : Bool := false
  /-- clock of the last request by a GAIT word of an actor (R341) -/
  asked : Option Nat := none
  deriving DecidableEq, Repr

structure Tok where
  pay : Line := 0
  side : BitVec 24 := 0
  deriving DecidableEq, Repr

/-- A firing in progress (R115, R138, R359): its context and actor, the marker or filled gap it takes, its cost, the clocks on which it
began and on which its effects complete, and the records in use at the head of each input endpoint. -/
structure Firing where
  ctx : Nat := 0
  actor : Nat := 0
  mark : Option Nat := none
  fill : Option Nat := none
  cost : Nat := 0
  began : Nat := 0
  fin : Nat := 0
  used : List Nat := []
  /-- what it took and saw at its start: the tokens of each input endpoint, the chains, the lines that the check of R346 read -/
  heads : List (List Tok) := []
  chains : Assoc Chain := {}
  metas : List (Nat × Line × Line) := []
  /-- accesses of the slice made so far, in order: the bytes read, none for a store (R339, R356) -/
  io : List (List Byte) := []
  /-- its first free value -/
  free : Nat := 0
  /-- an access has met an uncorrectable word, and MACHINE_CHECK has been raised (R341, R357) -/
  struck : Bool := false
  /-- an ARM has replaced the section's counts since it began: it does not count against them (R121) -/
  rearmed : Bool := false
  deriving DecidableEq, Repr

structure Tile where
  gait : GaitSt := {}
  v : Assoc Line := {}
  /-- bank words by bank·512 + row·32 + column -/
  acc : Assoc Word32 := {}
  latch : BitVec 256 := 0
  chains : Assoc Chain := {}
  lfsr : Word32 := 1
  jl : Assoc Word32 := {}
  active : Nat := 0
  /-- context switch in progress: target, end clock, number·128 + region of its command -/
  csw : Option (Nat × Nat × Nat) := none
  /-- a SWITCH accepted and not begun: target, number -/
  cswDue : Option (Nat × Nat) := none
  ctxs : Assoc Ctx := {}
  reqs : List MReq := []
  /-- the tile's last firing ends at this clock -/
  busy : Nat := 0
  fir : Option Firing := none
  deriving DecidableEq, Repr

/-! ### Channels -/

/-- A gap (R141). -/
structure Gap where
  first : Nat := 0
  cnt : Nat := 0
  wt : Nat := 0
  cwt : Nat := 0
  deriving DecidableEq, Repr

/-- A buffered record or marker with the gaps attached before it (R136–R141). -/
structure Item where
  gaps : List Gap := []
  seq : Nat := 0
  /-- first clock on which its consumer may take it (R359) -/
  ready : Nat := 0
  /-- weight of what came before it (R27, R142) -/
  cum : Nat := 0
  toks : List Tok := []
  mark : Bool := false
  /-- the format a narrowed record is stored in (R137); its tokens stand widened -/
  narrow : Option Nat := none
  /-- slot of each stored token in the extension ring; none: in the landing buffer (R118) -/
  slots : List (Option Nat) := []
  deriving DecidableEq, Repr

/-- A record or marker in the spill ring (R139): a record's payload stands in memory. -/
structure Spilled where
  gaps : List Gap := []
  seq : Nat := 0
  toks : List Tok := []
  mark : Bool := false
  deriving DecidableEq, Repr

/-- Branch state (R135). -/
structure BState where
  seq : Nat := 0
  cumw : Nat := 0
  gap : Gap := {}
  /-- gaps closed and not yet attached -/
  closed : List Gap := []
  eng : Bool := false
  spact : Bool := false
  spocc : Nat := 0
  integ : Int := 0
  sph : Nat := 0
  lenmis : Bool := false
  stabt : Bool := false
  spq : Bool := false
  ovf : Bool := false
  nseen : Bool := false
  cseen : Bool := false
  loss : Bool := false
  sphd : Nat := 0
  lost : Nat := 0
  /-- kept position of the SAMPLE group (R137) -/
  keep : Nat := 0
  /-- CHANNEL_OVERFLOW that found 16 causes pending, with its strand (R212) -/
  owed : Option (Nat × Cause) := none
  /-- a SHED has changed the marks: release test at the next arrival (R143) -/
  retest : Bool := false
  deriving DecidableEq, Repr

/-- A record or marker on its way along a branch (R110, R126, R358): the clock on which its last token left its producer, and the first and the
last clock on which it may land; none where no rule bounds its way. -/
structure Flying where
  toks : List Tok := []
  left : Nat := 0
  due : Nat := 0
  last : Option Nat := none
  deriving DecidableEq, Repr

/-- One branch of a channel at its landing, with its egress copy when the consumer is on another module (R142). -/
structure Branch where
  word : BitVec 256 := 0
  ext : Half := 0
  kind : BitVec 2 := 0
  port : Half := 0
  st : BState := {}
  buf : List Item := []
  /-- records and markers emitted and not yet arrived -/
  flight : List Flying := []
  /-- first clock on which the junction accepts the next record (R126) -/
  lastIn : Nat := 0
  spill : List Spilled := []
  lfsr : Word32 := 1
  /-- a SHED away from SPILL that waits for the ring to drain (R143) -/
  shed : Option (BitVec 256) := none
  /-- number·128 + region of that SHED, and whether it clears the sticky bits -/
  shedTag : Nat := 0
  shedClr : Bool := false
  lastNum : Nat := 0
  park : Option Park := none
  remote : Bool := false
  /-- clock·5 + place of its last event in the order of a clock (R143) -/
  stage : Nat := 0
  /-- next channel sequence number and weight expected by the landing (R27) -/
  expSeq : Nat := 0
  expCumw : Nat := 0
  /-- weight that gaps from upstream have lost, which CUMW does not count (R27, R135) -/
  lostWt : Nat := 0
  /-- records sent by the egress, awaiting acknowledgement -/
  sent : Nat := 0
  deriving DecidableEq, Repr

structure Chan where
  head : BitVec 128 := 0
  branches : List Branch := []
  team : Nat := 0
  ctx : Nat := 0
  /-- producer kind (R256) and the region and tile, or port, it stands at -/
  prod : BitVec 2 := 0
  preg : Nat := 0
  ptile : Nat := 0
  pport : Nat := 0
  /-- first clock on which its next token may leave: one leaves on a clock (R318) -/
  next : Nat := 0
  live : Bool := true
  deriving DecidableEq, Repr

/-! ### Teams and the Ostler -/

inductive TState where
  | depwait | queued | loading | running | saving | saved | retiring | retired | killed
  deriving DecidableEq, Repr

/-- A task that waits in the retry queue of a die (R72): its index and attempt, the region it last ran on, and whether it had been dealt to
that region in a chunk and has not run. -/
structure Retry where
  die : Nat := 0
  index : Nat := 0
  attempt : Nat := 0
  last : Nat := 0
  dealt : Bool := false
  deriving DecidableEq, Repr

/-- An active job card (R71–R73). -/
structure Card where
  entry : Word := 0
  args : Word := 0
  retry : Nat := 0
  rsz : Nat := 0
  n : Nat := 0
  jdone : Word := 0
  jstat : Word := 0
  remaining : Nat := 0
  /-- retry queues of the dies, oldest first -/
  queue : List Retry := []
  used : Nat := 0
  failed : Option Nat := none
  deriving DecidableEq, Repr

/-- Energy and quota of a context (R104–R107). -/
structure Energy where
  spent : Nat := 0
  en : Bool := false
  exh : Bool := false
  remain : Int := 0
  /-- QUOTA traps due, one for each setting of EXH, at the next boundaries -/
  due : Nat := 0
  /-- regions whose strand 0 takes the QUOTA trap at its next instruction -/
  at0 : List Nat := []
  deriving DecidableEq, Repr

/-- An addressing context: tag, table root, bases, whether accesses are supervisor's, and the team. -/
structure Space where
  tag : Nat := 0
  root : Word := 0
  slicebase : Word := 0x200000000000
  cartbase : Word := 0x100000000000
  svm : Bool := false
  team : Nat := 0
  /-- region of the accessing agent, whose TLBs it uses (R160) -/
  reg : Nat := 0
  deriving DecidableEq, Repr

/-- Progress of a save, restore, kill or retirement. -/
structure Leave where
  /-- CLOSE has run (R216) -/
  closed : Bool := false
  /-- the quiescence tree has reported, or the hard path has run -/
  quiet : Bool := false
  hard : Bool := false
  limit : Nat := 0
  began : Nat := 0
  /-- save area and length of the image in it (R218) -/
  area : Word := 0
  len : Nat := 0
  /-- the space that the area lies in (R293) -/
  space : Space := {}
  /-- a save image was written whole -/
  saved : Bool := false
  /-- numbers and regions of CLOSE, QUIESCE, SAVE, RESTORE in progress -/
  quiesceNum : Option (Nat × Nat) := none
  /-- QUIESCE commands issued before that one and still pending -/
  quiesceMore : List (Nat × Nat) := []
  /-- SAVE commands that wait for quiescence: number, region, area and its space (R312) -/
  saveDue : List (Nat × Nat × Word × Space) := []
  restoreNum : Option (Nat × Nat) := none
  /-- LOADING from a save image: it waits for its tiles' gaits and START (R219) -/
  restoring : Bool := false
  killAt : Nat := 0
  stuck : Bool := false
  /-- RETIRING: steps done (R69) -/
  rstep : Nat := 0
  lost : Bool := false
  thermal : Bool := false
  deriving DecidableEq, Repr

/-- A registered image (R44): HBM address, length, and the number of its registration. -/
structure Image where
  addr : Nat := 0
  len : Nat := 0
  serial : Nat := 0
  deriving DecidableEq, Repr

structure Team where
  id : Nat := 0
  state : TState := .depwait
  x : Nat := 0
  y : Nat := 0
  w : Nat := 1
  h : Nat := 1
  cfgid : Word32 := 0
  mimg : Word := 0
  cdone : Word := 0
  deps : List (Nat × Word) := []
  /-- after some write or check every counter was at least its target (R46, R66) -/
  depsMet : Bool := false
  arg0 : Word := 0
  arg1 : Word := 0
  prio : Nat := 0
  atag : Nat := 0
  svm : Bool := false
  root : Word := 0
  slicebase : Word := 0x200000000000
  cartbase : Word := 0x100000000000
  /-- clock at which it entered QUEUED or SAVED, and RUNNING -/
  since : Nat := 0
  ranAt : Nat := 0
  port : Nat := 0
  energy : Energy := {}
  card : Option Card := none
  barrier : Barrier := {}
  leave : Leave := {}
  hitch : Option Nat := none
  /-- templates by index (R167) -/
  tmpl : Assoc (List Word) := {}
  /-- in-flight Carter writes, remote atomics and sends (R20) -/
  flying : Nat := 0
  /-- the registration its launch was accepted under (R44) -/
  image : Image := {}
  imageReady : Bool := false
  /-- the space that the launch's own addresses were read in (R46) -/
  source : Space := {}
  /-- the launch packet (R45) -/
  packet : Line := 0
  deriving DecidableEq, Repr

/-- A hitch as this module knows it (R74). -/
structure Hitch where
  members : List Nat := []
  lead : Nat := 500
  t : Option Nat := none
  team : Option Nat := none
  ready : List Nat := []
  late : List Nat := []
  displaced : List Nat := []
  startedAt : Bool := false
  gone : Bool := false
  said : Bool := false
  deriving DecidableEq, Repr

structure Ostler where
  /-- accepted launches by queue die·2050 + port, oldest first: team ids (R60) -/
  queues : Assoc (List Nat) := {}
  deficit : Assoc Nat := {}
  pointer : Assoc Nat := {}
  /-- held rectangles: origin, shape, team (R64) -/
  holds : List (Nat × Nat × Nat × Nat × Nat) := []
  nextTeam : Nat := 1
  usedTags : List Nat := []
  withheld : List Nat := []
  images : Assoc Image := {}
  /-- die caches: serials and bytes, most recent first (R44) -/
  caches : Assoc (List (Nat × List Byte)) := {}
  serial : Nat := 1
  hitches : Assoc Hitch := {}
  plimit : Nat := 200000
  tsave : Word := 0
  deriving DecidableEq, Repr

/-! ### Tether table -/

/-- A tether entry (R76): waiter, owner, kind, the waiter's priority, tag and object; `seen` once its walk has ended (R82). -/
structure Teth where
  waiter : Nat := 0
  owner : Option Nat := none
  kind : BitVec 3 := 0
  prio : BitVec 3 := 0
  atag : Atag := 0
  obj : Word := 0
  seen : Bool := true
  deriving DecidableEq, Repr

structure Tethers where
  entries : List Teth := []
  /-- walks requested, oldest first: waiter (R82) -/
  walks : List Nat := []
  serial : Nat := 0
  /-- strands whose waiters have changed since priorities last settled (R87) -/
  dirty : List Nat := []
  tovf : Nat := 0
  tlong : Nat := 0
  knots : Nat := 0
  /-- wait order of each lock word by home key: strands (R274) -/
  locks : Assoc (List Nat) := {}
  deriving DecidableEq, Repr

/-! ### Translation and the fault queues -/

structure Tlb where
  tag : Nat := 0
  page : Nat := 0
  /-- level of the leaf: 1, 2 or 3 (R155) -/
  lvl : Nat := 3
  leaf : Word := 0
  deriving DecidableEq, Repr

/-- A walk in flight, or a miss waiting for one (R160), on a die. -/
structure Walk where
  die : Nat := 0
  tag : Nat := 0
  page : Nat := 0
  deriving DecidableEq, Repr

/-- A fault-queue entry (R162). -/
structure FEntry where
  w0 : Word := 0
  w1 : Word := 0
  w2 : Word := 0
  w3 : Word := 0
  deriving DecidableEq, Repr

structure Trans where
  /-- micro-TLBs by region, newest first (R160) -/
  micro : Assoc (List Tlb) := {}
  /-- shared TLBs by die, newest first -/
  tlb : Assoc (List Tlb) := {}
  /-- walks, oldest first: the first 1024 of a die are in flight, the others its miss queue -/
  walks : List Walk := []
  /-- TLBINV accepted and not complete: tag, low and high page, walks that must finish (R161) -/
  inval : List (Nat × Nat × Nat × List Walk) := []
  fq : Assoc (List FEntry) := {}
  fqWait : Assoc (List FEntry) := {}
  fqovf : List Nat := []
  /-- watch filters by die·32 + index (R164) -/
  watch : Assoc (BitVec 128) := {}
  deriving DecidableEq, Repr

/-! ### Reduction trees -/

/-- A contribution of one child: its epoch, child index, tokens (none: empty flag) and mask (R30). -/
structure Contrib where
  epoch : Nat := 0
  child : Nat := 0
  val : Option (List Line) := none
  mask : BitVec 128 := 0
  deriving DecidableEq, Repr

/-- A child of a node: a strand of the node's region, or a child region (R29). -/
inductive Kid where
  | self (t : StrandNo)
  | node (r : RegionId)
  deriving DecidableEq, Repr

structure Node where
  reg : RegionId := 0
  parent : Option RegionId := none
  rstr : StrandNo := 0
  kids : List Kid := []
  epoch : Nat := 0
  held : List Contrib := []
  /-- clock from which the timer may fire -/
  due : Option Nat := none
  deriving DecidableEq, Repr

structure Tree where
  team : Nat := 0
  len : Nat := 1
  tout : Nat := 0
  nodes : List Node := []
  /-- results at the root not yet taken: epoch, sum, mask, E -/
  results : List Contrib := []
  late : Nat := 0
  next : Nat := 0
  deriving DecidableEq, Repr

/-- What a save image holds of a team, decoded, with the digest of its body (R109, R218; log 22). -/
structure Saved where
  digest : List Byte := []
  strands : List (Nat × Strand) := []
  regions : List (Nat × Region) := []
  tiles : List (Nat × Tile) := []
  chans : List (Nat × Chan) := []
  trees : List (Nat × Tree) := []
  users : List Teth := []
  deriving DecidableEq, Repr

/-! ### Fabric -/

structure Packet where
  hdr : BitVec 128 := 0
  addr : Line := 0
  pay : List Line := []
  /-- has left the die it was made on -/
  left : Bool := false
  /-- the die it is at (R9) -/
  here : Nat := 0
  /-- the link it is to leave by, once chosen (R17) -/
  link : Option Nat := none
  /-- it stood in a link that failed: it goes ahead of newer packets of its class (R17) -/
  failed : Bool := false
  /-- destination byte at which a copy's line begins (R168) -/
  line : Nat := 0
  /-- sidebands of the tokens of a channel packet (R27, R142) -/
  side : List (BitVec 24) := []
  deriving DecidableEq, Repr

/-- Arbitration at a link or die edge (R19): deficits of classes 1–3, the class served last, and flits sent since the last C4 packet
while one waits. -/
structure Arb where
  deficit : Assoc Nat := {}
  turn : Nat := 3
  owed : Nat := 0
  deriving DecidableEq, Repr

/-- A link (R13, R14). -/
structure Link where
  crcerr : Nat := 0
  replay : Nat := 0
  peer : Nat := 0
  st : BitVec 3 := 4
  lanes : BitVec 4 := 0
  en : Bool := false
  rxSeq : BitVec 12 := 0
  txSeq : BitVec 12 := 0
  /-- packets queued, and packets sent whose flits are not acknowledged -/
  txq : List Packet := []
  unacked : List Packet := []
  arb : Arb := {}
  deriving DecidableEq, Repr

structure Route where
  valid : Bool := false
  primary : BitVec 4 := 0
  alternates : Half := 0
  deriving DecidableEq, Repr

structure Fabric where
  modId : ModId := 0
  written : Bool := false
  links : Assoc Link := {}
  routes : Assoc Route := {}
  /-- packets accepted and not yet handled -/
  inbound : List Packet := []
  errlog : Nat := 0
  /-- arbitration of die edges by die·32 + neighbour (R9, R19) -/
  edges : Assoc Arb := {}
  /-- C0 egress occupancy by die (R22) -/
  c0q : Assoc Nat := {}
  /-- next SEQ by source strand, destination and class (R18) -/
  seqs : Assoc Nat := {}
  /-- packets received of each stream in SEQ order (R22, R26) -/
  rseqs : Assoc Nat := {}
  /-- draw tokens spent per SMOD·4096 + ATAG and not yet returned (R28) -/
  spent : Assoc Nat := {}
  deriving DecidableEq, Repr

/-! ### Ingress and the host -/

/-- An ingress port (R39–R43). -/
structure IPort where
  desc : BitVec 256 := 0
  /-- number of the next entry -/
  entry : Nat := 0
  engaged : Bool := false
  phase : Nat := 0
  lfsr : Word32 := 1
  keep : Nat := 0
  /-- CHANNEL_OVERFLOW that found 16 causes pending, with its strand (R212) -/
  owed : Option (Nat × Cause) := none
  /-- lost messages not yet reported, by ARRIVED number (R42) -/
  gaps : List Gap := []
  rejected : Nat := 0
  dropped : Nat := 0
  refReason : Nat := 0
  refCount : Nat := 0
  /-- descriptor under which the port accepted what it still finishes, while it is DISABLED (R40) -/
  was : BitVec 256 := 0
  /-- tokens of a stream's record on its way to the entry channel -/
  part : List (Line × BitVec 24) := []
  /-- STREAM mode: the team of the stream, and whether the stream is being discarded -/
  team : Option Nat := none
  discard : Bool := false
  deriving DecidableEq, Repr

/-- What the module sends outside: mailbox events and replies, interrupts, host data, packets. -/
inductive Out where
  | reply (cmd : String) (data : List Word)
  | refuse (cmd : String) (why : String)
  | event (name : String) (data : List Word)
  | msix (vec : Nat)
  | data (bytes : List (Option Byte))
  | report (src : Nat) (body signature : List Byte)
  | packet (p : Packet)
  /-- a response to a packet; `lost`: it was discarded (R20, R27) -/
  | ack (tag : Nat) (cls : Nat) (src : Nat) (tokens : Nat) (lost : Bool)
  /-- the receiver acknowledges flits of a link up to a sequence number, or asks for a replay from it (R13) -/
  | flits (link : Nat) (seq : Nat) (ok : Bool)
  deriving DecidableEq, Repr

/-- One host port (R35, R36, R48). -/
structure HostPort where
  slots : Assoc Word := {}
  rbsel : Word := 0
  hostdrop : Nat := 0
  bar2off : Word := 0
  /-- BAR2 is 2^n bytes (R34) -/
  bar2size : Nat := 41
  deriving DecidableEq, Repr

structure HostSide where
  hp0 : HostPort := {}
  hp1 : HostPort := {}
  ports : Assoc IPort := {}
  out : List Out := []
  wallclock : Nat := 0
  deriving DecidableEq, Repr

/-! ### Trust -/

/-- Lifecycle states (R52, R56). -/
inductive Lcs where
  | blank | provisioned | deployed | debugOpen | retired
  deriving DecidableEq, Repr

/-- Measurement, lifecycle and boot (R51–R58). -/
structure Trust where
  lcs : Lcs := .blank
  ready : Bool := false
  recovery : Bool := false
  dbg : Bool := false
  svn : Nat := 0
  fuses : Nat := 0
  device : BitVec 128 := 0
  idSeed : BitVec 256 := 0
  meas : List (BitVec 512) := List.replicate 8 0
  nonce : Option (BitVec 256) := none
  /-- the one-way fuse of DEBUG_OPEN is blown (R56, R58) -/
  opened : Bool := false
  att : List (BitVec 2 × BitVec 256) := []
  flash : Option (List Byte) := none
  /-- the firmware runs and may power regions up -/
  booted : Bool := false
  deriving DecidableEq, Repr

/-! ### Power, heat and the Farriers -/

structure FRun where
  region : RegionId := 0
  stop : Nat := 0
  /-- home key of the completion counter -/
  counter : Option Nat := none
  /-- LRMAP field before FSCAN -/
  prior : BitVec 2 := 0
  /-- clock at which a pre-emption of the region was committed (R64, R373) -/
  pre : Option Nat := none
  /-- boundary clock of the pattern in progress -/
  due : Nat := 0
  deriving DecidableEq, Repr

structure Die where
  /-- the junction sensor's last sample in °C (R108) -/
  temp : Nat := 0
  /-- clock of that sample -/
  sampled : Option Nat := none
  throttle : Bool := false
  warn : Bool := false
  coolSince : Option Nat := none
  /-- clock of the last wake slot and region-within-die served last (R99) -/
  wakeAt : Option Nat := none
  wakeLast : Nat := 3
  farrier : Option FRun := none
  fres : Word := 0
  /-- byte counts of the four accounting classes (R156) -/
  acct : Assoc Nat := {}
  /-- corrected errors of slices and of HBM (R215) -/
  corr : Assoc Nat := {}
  deriving DecidableEq, Repr

structure Power where
  budget : Nat := 768000000
  dies : Assoc Die := {}
  /-- start of the current draw interval (R102) -/
  interval : Nat := 0
  /-- clock at which region 0 began its power-up (R49) -/
  began : Option Nat := none
  powered : Bool := true
  deriving DecidableEq, Repr

/-! ### The step in progress -/

/-- The strand whose instruction runs, or the command that begins, and what the step has found (the model's own fields). -/
structure Cur where
  reg : RegionId := 0
  str : StrandNo := 0
  /-- address and word of the instruction, and the operands captured by a replay entry -/
  pc : Word := 0
  insn : Word32 := 0
  cap : Option (Word × Word) := none
  /-- number and queue of the command that begins; queue 33: at acceptance -/
  num : Nat := 0
  queue : Nat := 33
  /-- a watch hit of this instruction (R164) -/
  watch : Option Word := none
  /-- the response of its request has come: it is performed at this home on another module (R157) -/
  home : Option Nat := none
  denied : Bool := false
  deriving DecidableEq, Repr

/-- One turn of the schedule (log 4): which agent moves next. -/
inductive Turn where
  /-- the Drover of a region issues for a strand -/
  | issue (r : RegionId) (t : StrandNo)
  /-- a step of an engine, the Ostler, the fabric, the firmware or the host -/
  | event (i : Instr)
  /-- the head of a command queue begins -/
  | command (r : RegionId) (q : Nat)
  /-- the spine clock advances -/
  | tick (n : Nat)
  /-- a pending store is performed at its home (R174) -/
  | perform (r : RegionId) (t : StrandNo) (k : Nat)
  /-- the aligned 8 bytes of the snapshot that hold a byte are bound before a load reads them (R171, R173) -/
  | bind (r : RegionId) (t : StrandNo) (key : Nat)
  /-- a store released at a narrow scope is performed (R172, R174) -/
  | settle (k : Nat)
  /-- the strand issues its next instruction behind unfinished ones (R259) -/
  | ahead (r : RegionId) (t : StrandNo)
  /-- an acknowledged request to another module finishes (R157, R259) -/
  | land (r : RegionId) (t : StrandNo)
  /-- the frame of a trap is written although a load sent before it has no response (R209) -/
  | frame (r : RegionId) (t : StrandNo)
  /-- the strand's stores are performed late from now on, or at once -/
  | defer (r : RegionId) (t : StrandNo) (on : Bool)
  /-- a TLB entry is evicted -/
  | evict (die : DieId) (tag : Nat) (page : Nat)
  /-- the firmware returns to a strand it holds, with the result of a SYSCALL -/
  | firmware (r : RegionId) (t : StrandNo) (result : Option Word)
  /-- an agent outside the module writes memory of its own -/
  | world (key : Nat) (data : List Byte)
  /-- a register loses its parity (R214) -/
  | parity (r : RegionId) (t : StrandNo) (g : Reg) (again : Bool)
  /-- an 8-byte word becomes uncorrectable, or an error is corrected (R215) -/
  | poison (key : Nat)
  | corrected (die : DieId) (hbm : Bool)
  /-- the flits of a link's oldest queued packet are sent -/
  | sent (link : Nat)
  /-- the firmware clears what it alone clears: the tether counts (R89), a region's counter block (R228) -/
  | clearTether
  | clearBlock (r : RegionId)
  /-- the firmware writes BAR2OFF of a host port, the host sets the size of its BAR2 (R34, R35) -/
  | bar2off (host : Bool) (v : Word)
  | bar2size (host : Bool) (n : Nat)
  /-- the host reads 8 bytes of BAR0 (R35, R37, R52) -/
  | bar0Read (host : Bool) (off : Word)
  /-- the load of the configuration command at a queue's head begins; `command` completes it (R227) -/
  | load (r : RegionId) (q : Nat)
  /-- the far end acknowledges the flits of the oldest packet sent, or asks for a replay of all that it has not acknowledged (R13) -/
  | acked (link : Nat)
  | replay (link : Nat)
  /-- an enabled link that is DOWN starts to train (R14) -/
  | train (link : Nat)
  /-- the egress of a branch whose consumer is on another module sends its oldest records (R142) -/
  | egress (ch : Nat) (br : Nat)
  /-- a firing in progress makes its next accesses of the slice (R339, R356) -/
  | slice (r : RegionId) (tile : TileId) (n : Nat)
  deriving DecidableEq, Repr

structure State where
  clock : Nat := 0
  /-- bytes of memory by home key, in canonical form -/
  mem : List Host.Cell := []
  /-- bytes written by the step in progress, newest first: empty between steps -/
  wlog : List Host.Cell := []
  /-- uncorrectable 8-byte words by home key -/
  poison : List Nat := []
  /-- bytes of strands' own stores that their fetches do not see yet (R173): key, strand, and the byte a fetch sees instead -/
  hidden : List (Nat × Nat × Byte) := []
  /-- stores released at a scope below MODULE and not yet performed (R172) -/
  part : List Part := []
  strands : Assoc Strand := {}
  regions : Assoc Region := {}
  tiles : Assoc Tile := {}
  chans : Assoc Chan := {}
  teams : Assoc Team := {}
  ost : Ostler := {}
  /-- contents of save images by team, and USER entries kept from CLOSE on -/
  saves : Assoc Saved := {}
  teth : Tethers := {}
  trans : Trans := {}
  trees : Assoc Tree := {}
  fab : Fabric := {}
  host : HostSide := {}
  sec : Trust := {}
  power : Power := {}
  cur : Cur := {}
  schedule : List Turn := []
  free : Nat := 0
  deriving DecidableEq, Repr

/-- The module right after reset (R49, R266): no team, every strand IDLE, every tile STABLED, memory with nothing listed, links
DISABLED, and the values of log 1 where the spec gives none. -/
def State.reset : State := {}

end Sys2Proof.Machine
end

