-- ==== Sys2Proof/Machine/Mem.lean ====
section
/-! DEFINITION. Memory as a list of (home key, byte) cells in one canonical form, the step's write log, and the home keys of HBM
and of the slices (R3, R157, R158, R171; log 2, 9). -/

namespace Sys2Proof.Machine

/-- What an unlisted address reads as: slices are zeroed at power-up (R49); HBM reads zero by design choice (log 2). -/
def Memory.blank : Byte := 0

/-- Strictly rising addresses, and no cell that holds what an unlisted address reads as. -/
def Memory.wf : List Host.Cell → Bool
  | [] => true
  | [c] => c.2 != Memory.blank
  | c :: d :: t => c.2 != Memory.blank && decide (c.1 < d.1) && Memory.wf (d :: t)

/-- The byte at an address. -/
def memRead : List Host.Cell → Nat → Byte
  | [], _ => Memory.blank
  | c :: t, a => if c.1 = a then c.2 else if a < c.1 then Memory.blank else memRead t a

/-- Write one byte, keeping the canonical form. -/
def memWrite : List Host.Cell → Nat → Byte → List Host.Cell
  | [], a, b => if b = Memory.blank then [] else [(a, b)]
  | c :: t, a, b =>
    if a < c.1 then (if b = Memory.blank then c :: t else (a, b) :: c :: t)
    else if c.1 = a then (if b = Memory.blank then t else (a, b) :: t)
    else c :: memWrite t a b

/-- Apply a write log, oldest entry last in the list. -/
def memCommit (m : List Host.Cell) : List Host.Cell → List Host.Cell
  | [] => m
  | w :: ws => memWrite (memCommit m ws) w.1 w.2

def logFind : List Host.Cell → Nat → Option Byte
  | [], _ => none
  | w :: ws, a => if w.1 = a then some w.2 else logFind ws a

/-- The byte at its home, as it stands at this point of the step. -/
def readByte (s : State) (key : Nat) : Byte :=
  match logFind s.wlog key with
  | some b => b
  | none => memRead s.mem key

def readBytes (s : State) (key : Nat) : Nat → List Byte
  | 0 => []
  | n + 1 => readByte s key :: readBytes s (key + 1) n

def logBytes (log : List Host.Cell) (key : Nat) : List Byte → List Host.Cell
  | [] => log
  | b :: bs => logBytes ((key, b) :: log) (key + 1) bs

/-- Perform a write at the home (R171). A word that is written is correctable again (R215), and no fetch is kept from a byte
that is written again (R173). -/
def writeBytes (s : State) (key : Nat) (bs : List Byte) : State :=
  { s with wlog := logBytes s.wlog key bs
           poison := if s.poison.isEmpty then [] else
             s.poison.filter (fun p => decide (p + 8 ≤ key) || decide (key + bs.length ≤ p))
           hidden := if s.hidden.isEmpty then [] else
             s.hidden.filter (fun h => decide (h.1 < key) || decide (key + bs.length ≤ h.1)) }

/-- Write where the mask allows. -/
def writeMasked (s : State) (key : Nat) : List (Option Byte) → State
  | [] => s
  | none :: t => writeMasked s (key + 1) t
  | some b :: t => writeMasked (writeBytes s key [b]) (key + 1) t

def readWord (s : State) (key : Nat) : Word := BitVec.ofNat 64 (ofBytes (readBytes s key 8))

def writeWord (s : State) (key : Nat) (v : Word) : State := writeBytes s key (toBytes v 8)

/-- Home key of a physical address of a module's HBM (R157). -/
def hbmKey (m : Nat) (pa : Nat) : Nat := m * 2 ^ 48 + pa

/-- Home key of a byte of a module's slices by the low 32 bits of its window offset (R158). -/
def sliceKey (m : Nat) (off : Nat) : Nat := m * 2 ^ 48 + 2 ^ 47 + off

/-- The window offset of a region: die id and region within die (R7, R158). -/
def regionDie (r : Nat) : Nat := (r / 16 / 2) * 8 + r % 16 / 2
def regionWithin (r : Nat) : Nat := (r / 16 % 2) * 2 + r % 2
def dieRegion (die q : Nat) : Nat := (die / 8 * 2 + q / 2) * 16 + (die % 8 * 2 + q % 2)

/-- Home key of a byte of a tile's slice on this module. -/
def tileKey (s : State) (r tile byte : Nat) : Nat :=
  sliceKey s.fab.modId.toNat (((regionDie r * 4 + regionWithin r) * 256 + tile) * 131072 + byte % 131072)

/-- Whether an uncorrectable word is touched (R215). -/
def poisoned (s : State) (key n : Nat) : Bool :=
  s.poison.any (fun p => decide (p < key + n) && decide (key < p + 8))

end Sys2Proof.Machine
end

