-- ==== Sys2Proof/Machine/Packets.lean ====
section
/-! DEFINITION. Packets of the fabric (R18): the fields of a header, forming one, sequence numbers (R22, R26) and making a packet on
this module. -/

namespace Sys2Proof.Machine

def modN (s : State) : Nat := s.fab.modId.toNat

namespace Hp
def dmod (p : Packet) : Nat := bitsN p.hdr 115 13
def ddie (p : Packet) : Nat := bitsN p.hdr 110 5
def tgt (p : Packet) : Nat := bitsN p.hdr 94 16
def smod (p : Packet) : Nat := bitsN p.hdr 81 13
def src (p : Packet) : Nat := bitsN p.hdr 72 9
def cls (p : Packet) : Nat := bitsN p.hdr 69 3
def atag (p : Packet) : Nat := bitsN p.hdr 57 12
def hops (p : Packet) : Nat := bitsN p.hdr 53 4
def seq (p : Packet) : Nat := bitsN p.hdr 37 16
def len (p : Packet) : Nat := bitsN p.hdr 31 6
def carter (p : Packet) : Bool := bit p.hdr 30
/-- Carter channel and copy generation of a C1 packet and of a C4 copy packet. -/
def chan (p : Packet) : Nat := if cls p == 1 then bitsN p.hdr 26 5 else bitsN p.hdr 25 5
def gen (p : Packet) : Nat := if cls p == 1 then bitsN p.hdr 10 16 else bitsN p.hdr 9 16
/-- Epoch and empty flag of a C2 packet, its tree and child slot. -/
def epoch (p : Packet) : Nat := bitsN p.hdr 15 16
def empty (p : Packet) : Bool := bit p.hdr 14
def tree (p : Packet) : Nat := bitsN p.hdr 94 6
def slot (p : Packet) : Nat := bitsN p.hdr 100 3
/-- Operation, size, ACQ and REL of a C3 packet. -/
def op (p : Packet) : Nat := bitsN p.hdr 26 5
def size (p : Packet) : Nat := bitsN p.hdr 24 2
/-- Source strand or channel and destination of a stream of packets in SEQ order (R22, R26). The destination of a C3 stream is its module (DESIGN CHOICE:
R18 says only 'destination'; log 21). -/
def stream (p : Packet) : Nat :=
  (((smod p * 512 + src p) * 8192 + dmod p) * 65536 + (if cls p == 0 then ddie p * 2048 + tgt p % 2048 else 0)) * 8 + cls p
end Hp

/-- A header. -/
def mkHdr (dmod ddie tgt smod src cls atag seq len csp : Nat) : BitVec 128 :=
  BitVec.ofNat 128 (dmod * 2 ^ 115 + ddie * 2 ^ 110 + tgt * 2 ^ 94 + smod * 2 ^ 81 + src * 2 ^ 72 + cls * 2 ^ 69 + atag * 2 ^ 57
    + 15 * 2 ^ 53 + seq % 65536 * 2 ^ 37 + len * 2 ^ 31 + csp)

/-- A class 5–7, a length above 32, or a bit that R18 keeps zero. -/
def Packet.bad (p : Packet) : Bool :=
  decide (4 < Hp.cls p) || decide (32 < Hp.len p) ||
  (match Hp.cls p with
    | 0 => bitsN p.hdr 105 5 != 0 || bitsN p.hdr 0 31 != 0
    | 1 => Hp.tgt p != 0 || Hp.seq p != 0 || bitsN p.hdr 0 10 != 0
    | 2 => bitsN p.hdr 103 7 != 0 || Hp.seq p != 0 || bitsN p.hdr 0 14 != 0
    | 3 => Hp.tgt p != 0 || bitsN p.hdr 0 22 != 0
    | _ => if Hp.carter p then Hp.tgt p != 0 || Hp.seq p != 0 || bitsN p.hdr 0 9 != 0 else bitsN p.hdr 0 30 != 0)

def updFab (s : State) (f : Fabric → Fabric) : State := { s with fab := f s.fab }

/-- The lines of a channel that are not acknowledged, by copy generation and destination byte: those of copies that have ended, then the
current copy's (R20, R168). -/
def Carter.places (c : Carter) : List (Nat × Nat) :=
  c.old ++ (match c.cur with | some x => x.flying.map (fun n => (x.gen, n)) | none => [])

/-- The channel without its copy: the lines still on their way are kept until they are acknowledged (R20). -/
def Carter.ended (c : Carter) : Carter := { c with cur := none, old := c.places }

/-- A packet is made on this module, at its source's die. -/
def inject (s : State) (p : Packet) : State :=
  updFab s (fun f => { f with inbound := f.inbound ++ [{ p with here := regionDie (Hp.src p / 4) }] })

/-- Next SEQ of a stream. -/
def takeSeq (s : State) (k : Nat) : Nat × State :=
  let n := s.fab.seqs.getD k 0
  (n, updFab s (fun f => { f with seqs := f.seqs.put k ((n + 1) % 65536) }))

/-- The address that a packet carries to a home of another module: the physical address in HBM, else the slice window's default
place (R157, R158; log 21). -/
def awayAddr (key : Nat) : Nat :=
  let a := key % 2 ^ 48
  if a ≥ 2 ^ 47 then 0x200000000000 + key / 2 ^ 48 * 2 ^ 32 + (a - 2 ^ 47) else a

/-- Code of an access size of n bytes in a C3 header (log 21). -/
def sizeCode (n : Nat) : Nat := if n == 8 then 0 else if n == 4 then 1 else if n == 2 then 2 else 3

/-- A C3 packet to the home of `key` (R18, R26, R157): operation, size, operands in the payload, ordering bits. -/
def sendC3 (s : State) (src tag die key n op : Nat) (acq rel : Bool) (data : List Byte) : State :=
  let pay : List Line := if data.isEmpty then [] else [BitVec.ofNat 512 (ofBytes data)]
  let csp := op * 2 ^ 26 + sizeCode n * 2 ^ 24 + (if acq then 2 ^ 23 else 0) + (if rel then 2 ^ 22 else 0)
  let hdr (q : Nat) : BitVec 128 := mkHdr (key / 2 ^ 48) die 0 (modN s) src 3 tag q pay.length csp
  let x := takeSeq s (Hp.stream { hdr := hdr 0 })
  inject x.2 { hdr := hdr x.1, addr := BitVec.ofNat 512 (awayAddr key), pay := pay }

end Sys2Proof.Machine
end

