-- ==== Sys2Proof/Machine/Ops.lean ====
section
/-! DEFINITION. Named operations over the state: accessors, registers, energy (R104, R107), translation (R154–R158), watches
(R164), what a strand sees of memory (R171–R178), taking an exception (R205, R206, R208) and returning from one (R210). -/

namespace Sys2Proof.Machine

/-! ### Accessors -/

/-- Index of a strand: region·4 + strand (R77). -/
def sid (r : RegionId) (t : StrandNo) : Nat := r.toNat * 4 + t.toNat

def getStrand (s : State) (i : Nat) : Strand := s.strands.getD i {}
def setStrand (s : State) (i : Nat) (x : Strand) : State := { s with strands := s.strands.put i x }
def updStrand (s : State) (i : Nat) (f : Strand → Strand) : State := setStrand s i (f (getStrand s i))

def getRegion (s : State) (r : Nat) : Region := s.regions.getD r {}
def setRegion (s : State) (r : Nat) (x : Region) : State := { s with regions := s.regions.put r x }
def updRegion (s : State) (r : Nat) (f : Region → Region) : State := setRegion s r (f (getRegion s r))

def getTile (s : State) (r tile : Nat) : Tile := s.tiles.getD (r * 256 + tile) {}
def setTile (s : State) (r tile : Nat) (x : Tile) : State := { s with tiles := s.tiles.put (r * 256 + tile) x }
def updTile (s : State) (r tile : Nat) (f : Tile → Tile) : State := setTile s r tile (f (getTile s r tile))

def getTeam (s : State) (id : Nat) : Team := s.teams.getD id {}
def setTeam (s : State) (id : Nat) (x : Team) : State := { s with teams := s.teams.put id x }
def updTeam (s : State) (id : Nat) (f : Team → Team) : State := if (s.teams.find? id).isSome then setTeam s id (f (getTeam s id)) else s

def getDie (s : State) (d : Nat) : Die := s.power.dies.getD d {}
def updDie (s : State) (d : Nat) (f : Die → Die) : State :=
  { s with power := { s.power with dies := s.power.dies.put d (f (getDie s d)) } }

def getChan (s : State) (c : Nat) : Chan := s.chans.getD c {}
def setChan (s : State) (c : Nat) (x : Chan) : State := { s with chans := s.chans.put c x }

def getIPort (s : State) (p : Nat) : IPort := s.host.ports.getD p {}
def setIPort (s : State) (p : Nat) (x : IPort) : State := { s with host := { s.host with ports := s.host.ports.put p x } }

/-- Send something outside the module. -/
def emit (s : State) (o : Out) : State := { s with host := { s.host with out := s.host.out ++ [o] } }

def sat64 (n : Nat) : Nat := min n (2 ^ 64 - 1)

/-- Count at an offset of the region counter block (R228). -/
def bump (s : State) (r off n : Nat) : State :=
  updRegion s r (fun g => { g with ctrs := g.ctrs.put off (sat64 (g.ctrs.getD off 0 + n)) })

/-- Whether a team holds a region (R59): from LOADING until its regions are freed. -/
def Team.holds (t : Team) (r : Nat) : Bool :=
  (match t.state with
    | .loading | .running | .saving | .retiring | .killed => true
    | _ => false) &&
  decide (t.x ≤ r % 16) && decide (r % 16 < t.x + t.w) && decide (t.y ≤ r / 16) && decide (r / 16 < t.y + t.h)

def teamOf (s : State) (r : Nat) : Option Team := s.teams.vals.find? (fun t => t.holds r)

/-- Regions of a rectangle in id order. -/
def rectRegions (x y w h : Nat) : List Nat :=
  (List.range h).flatMap (fun j => (List.range w).map (fun i => (y + j) * 16 + x + i))

def Team.regions (t : Team) : List Nat := rectRegions t.x t.y t.w t.h

def me (s : State) : Nat := sid s.cur.reg s.cur.str
def self (s : State) : Strand := getStrand s (me s)
def updSelf (s : State) (f : Strand → Strand) : State := updStrand s (me s) f
def myTeam (s : State) : Team := (teamOf s s.cur.reg.toNat).getD {}

/-- A strand's global id (R77). -/
def gidOf (s : State) (i : Nat) : Nat := modN s * 512 + i
/-- Its owner word (R77). -/
def ownerWord (s : State) (i : Nat) : Word := BitVec.ofNat 64 (2 ^ 63 + gidOf s i)
/-- Whether a word is an owner word (R77). -/
def isOwner (v : Word) : Bool := bit v 63 && bitsN v 22 41 == 0

/-! ### Registers (R258, R214) -/

def Strand.reg (st : Strand) (n : Reg) : Word := if n = 0 then 0 else st.regs[n.toNat]'(n.isLt)

def Strand.setReg (st : Strand) (d : Reg) (v : Word) : Strand :=
  if d = 0 then st
  else { st with regs := st.regs.set d.toNat v d.isLt
                 oplog := ((d, v) :: st.oplog).take 16
                 badpar := st.badpar.filter (fun x => x.1 != d) }

/-- Operand a: the register, or the value a replay entry captured (R209). -/
def opA (s : State) (a : Reg) : Word := match s.cur.cap with | some x => x.1 | none => (self s).reg a
/-- Operand b, or the store data of F-MEM. -/
def opB (s : State) (b : Reg) : Word := match s.cur.cap with | some x => x.2 | none => (self s).reg b

/-- A request's instruction has come to an end at its home while a trap waits for it: with its value, or at a wait (R209). -/
def Req.over (q : Req) : Bool := q.val.isSome || q.waits.isSome

/-- Set the value of the request that is finishing: the first answered one (R209). -/
def fillReq (v : Word) : List Req → List Req
  | [] => []
  | q :: qs => if q.answered && !q.gone && !q.over then { q with val := some v } :: qs else q :: fillReq v qs

/-- The request that is finishing must wait: it leaves a WAIT entry with this operand b (R209). -/
def parkReq (v : Word) : List Req → List Req
  | [] => []
  | q :: qs => if q.answered && !q.gone && !q.over then { q with waits := some v } :: qs else q :: parkReq v qs

/-- A request finishes while a trap of its strand waits for the frame (R209). -/
def landing (s : State) : Bool := s.cur.cap.isSome && s.cur.home.isSome && (self s).traps.due.isSome

/-- Write the destination; while a trap waits for its frame, the value goes into the request's COMPLETE entry instead (R209). -/
def setG (s : State) (d : Reg) (v : Word) : State :=
  if landing s then updSelf s (fun st => { st with sent := fillReq v st.sent })
  else updSelf s (fun st => st.setReg d v)

/-! ### Special words -/

/-- TSTATUS (R207). -/
def Strand.tstatus (st : Strand) : Word :=
  BitVec.ofNat 64 ((if st.spr.inh then 1 else 0) + (if st.spr.svm then 2 else 0) + (if st.spr.tfe then 4 else 0)
    + (if st.spr.ss then 8 else 0) + (if st.spr.dba then 16 else 0) + 32 * min st.traps.pend.length 16)

/-! ### Energy and quota (R104–R107) -/

/-- Charge draw tokens to a context; EXH is set when REMAIN falls to zero or below with EN = 1 (R107). -/
def chargeTeam (s : State) (id n : Nat) : State :=
  updTeam s id (fun t =>
    let e := t.energy
    let remain := e.remain - n
    let hit := e.en && !e.exh && decide (remain ≤ 0)
    { t with energy := { e with spent := sat64 (e.spent + n), remain := remain, exh := e.exh || hit, due := e.due + (if hit then 1 else 0) } })

/-- A grant (R105, R107): REMAIN is bounded by 2^61 − 1, and EXH clears when it is positive; a trap that is due stays due. -/
def setRemain (e : Energy) (en : Bool) (v : Int) : Energy :=
  let v := min v (2 ^ 61 - 1)
  let exh := en && decide (v ≤ 0)
  { e with en := en, remain := v, exh := exh, due := e.due + (if exh && !e.exh then 1 else 0) }

/-! ### Translation (R154–R158) -/

inductive Acc where
  | read | write | atomic | fetch
  deriving DecidableEq, Repr

/-- KIND of a fault entry and of a watch filter (R162, R164). -/
def Acc.kind : Acc → Nat
  | .read | .fetch => 0 | .write => 1 | .atomic => 2


def Team.space (t : Team) (svm : Bool) : Space :=
  { tag := t.atag, root := t.root, slicebase := t.slicebase, cartbase := t.cartbase, svm := svm, team := t.id, reg := t.y * 16 + t.x }

/-- The team's space for an engine of region r (R160). -/
def Team.spaceAt (t : Team) (svm : Bool) (r : Nat) : Space := { t.space svm with reg := r }

/-- Outcome of a translation. -/
inductive Xl where
  /-- the home key, and the leaf (0 when untranslated) -/
  | ok (key : Nat) (pte : Word)
  /-- an offset in the Carter page (R165) -/
  | cart (off : Nat)
  /-- no TLB entry for this 64 KiB page -/
  | miss (page : Nat)
  /-- cause, whether a walk denied it, malformed, level (R162) -/
  | bad (code : Byte) (walked mal : Bool) (lvl : Nat)
  deriving DecidableEq, Repr

def shiftOf (lvl : Nat) : Nat := if lvl = 1 then 36 else if lvl = 2 then 26 else 16

/-- Reserved bits, ATTR, and the address limits of an entry (R156). -/
def pteMalformed (m : Nat) (lvl : Nat) (e : Word) : Bool :=
  let pa := bitsN e 16 32 * 65536
  let leaf := bit e 4
  bitsN e 48 3 != 0 || bitsN e 13 3 != 0 || decide (2 ≤ bitsN e 8 2) || decide (2 ^ 41 ≤ pa)
    || (!leaf && bitsN e 51 13 != m) || (leaf && lvl == 0) || (!leaf && lvl == 3)
    || (leaf && lvl == 2 && pa % 2 ^ 26 != 0) || (leaf && lvl == 1 && pa % 2 ^ 36 != 0)

/-- The walk: the leaf and its level, or whether an entry was malformed and the level it stopped at. -/
def walkGo (s : State) (va : Nat) : List (Nat × Nat) → Nat → Nat → Except (Bool × Nat) (Word × Nat)
  | [], lvl, _ => .error (true, lvl)
  | (sh, n) :: more, lvl, table =>
    let e := readWord s (hbmKey (modN s) (table + 8 * (va / 2 ^ sh % 2 ^ n)))
    if !bit e 0 then .error (false, lvl)
    else if pteMalformed (modN s) lvl e then .error (true, lvl)
    else if bit e 4 then .ok (e, lvl)
    else walkGo s va more (lvl + 1) (bitsN e 16 32 * 65536)

def walkTable (s : State) (root : Word) (va : Nat) : Except (Bool × Nat) (Word × Nat) :=
  walkGo s va [(46, 11), (36, 10), (26, 10), (16, 10)] 0 root.toNat

def pteAllows (e : Word) (svm : Bool) : Acc → Bool
  | .read => bit e 1 && (svm || bit e 12)
  | .write => bit e 2 && (svm || bit e 12)
  | .atomic => bit e 1 && bit e 2 && (svm || bit e 12)
  | .fetch => bit e 3 && (svm || bit e 12)

def leafKey (e : Word) (lvl va : Nat) : Nat :=
  hbmKey (bitsN e 51 13) (bitsN e 16 32 * 65536 + va % 2 ^ shiftOf lvl)

def routeValid (s : State) (m : Nat) : Bool := m == modN s || (s.fab.routes.getD m {}).valid

/-- Whether the slice window may be used at this offset (R158). -/
def windowXl (s : State) (c : Space) (off : Nat) : Xl :=
  let m := off / 2 ^ 32
  let region := dieRegion (off / 2 ^ 27 % 32) (off / 2 ^ 25 % 4)
  let mine := getTeam s c.team
  let allowed := c.svm || c.tag == 0 ||
    (if m == modN s then
      match teamOf s region with
      | some t => t.id == c.team || (t.hitch.isSome && t.hitch == mine.hitch)
      | none => false
    else match mine.hitch with
      | some h => (s.ost.hitches.getD h {}).members.contains m
      | none => false)
  if !routeValid s m then .bad 0x04 true false 0
  else if allowed then .ok (sliceKey m (off % 2 ^ 32)) 0
  else .bad 0x05 false false 0

def Tlb.maps (e : Tlb) (tag va : Nat) : Bool := e.tag == tag && e.page == va / 2 ^ shiftOf e.lvl

/-- The entry of the region's micro-TLB, else of its die's shared TLB (R160). -/
def tlbFind (s : State) (r tag va : Nat) : Option Tlb :=
  match (s.trans.micro.getD r []).find? (fun e => e.maps tag va) with
  | some e => some e
  | none => (s.trans.tlb.getD (regionDie r) []).find? (fun e => e.maps tag va)

/-- Translate by the TLBs (R154, R155, R158, R160). -/
def translate (s : State) (c : Space) (va : Word) (k : Acc) : Xl :=
  let a := va.toNat
  let top := a / 2 ^ 56
  let canonical := top == 0 || top == 255
  let inWindow := decide (c.slicebase.toNat ≤ a) && decide (a < c.slicebase.toNat + 2 ^ 45)
  let inCart := decide (c.cartbase.toNat ≤ a) && decide (a < c.cartbase.toNat + 4096)
  if !canonical then .bad 0x05 false false 0
  else if inWindow then (if k == .fetch then .bad 0x05 false false 0 else windowXl s c (a - c.slicebase.toNat))
  else if inCart then (if k == .fetch then .bad 0x05 false false 0 else .cart (a - c.cartbase.toNat))
  else if c.tag == 0 then (if decide (a < 2 ^ 41) then .ok (hbmKey (modN s) a) 0 else .bad 0x05 false false 0)
  else match tlbFind s c.reg c.tag a with
    | some e => if pteAllows e.leaf c.svm k then .ok (leafKey e.leaf e.lvl a) e.leaf else .bad 0x05 true false e.lvl
    | none => .miss (a / 65536)

/-- Translate, walking the tables at once on a miss: engines and frame writes. -/
def translateNow (s : State) (c : Space) (va : Word) (k : Acc) : Xl :=
  match translate s c va k with
  | .miss _ =>
    match walkTable s c.root va.toNat with
    | .ok (e, lvl) => if pteAllows e c.svm k then .ok (leafKey e lvl va.toNat) e else .bad 0x05 true false lvl
    | .error (mal, lvl) => .bad 0x04 true mal lvl
  | x => x

/-- Put an entry first in a TLB of `cap` entries; the last of a full one is evicted (R160). -/
def tlbPut (l : List Tlb) (e : Tlb) (cap : Nat) : List Tlb := (e :: l.filter (· != e)).take cap

/-- An entry enters a region's micro-TLB and its die's shared TLB (R160). -/
def fillMicro (s : State) (r : Nat) (e : Tlb) : State :=
  { s with trans := { s.trans with micro := s.trans.micro.put r (tlbPut (s.trans.micro.getD r []) e 256) } }
def fillTlb (s : State) (r : Nat) (e : Tlb) : State :=
  let d := regionDie r
  fillMicro { s with trans := { s.trans with tlb := s.trans.tlb.put d (tlbPut (s.trans.tlb.getD d []) e 8192) } } r e

/-- A hit in the shared TLB fills the micro-TLB (R160). -/
def touchTlb (s : State) (c : Space) (va : Nat) : State :=
  if ((s.trans.micro.getD c.reg []).find? (fun e => e.maps c.tag va)).isSome then s
  else match tlbFind s c.reg c.tag va with
    | some e => fillMicro s c.reg e
    | none => s

/-- Whether a walk is in flight: it is among the first 1024 of its die (R160). -/
def walking (s : State) (w : Walk) : Bool := ((s.trans.walks.filter (fun x => x.die == w.die)).take 1024).contains w

/-- A miss starts a walk, joins the one of its page, or waits in the die's miss queue (R160). -/
def startWalk (s : State) (w : Walk) : State :=
  if s.trans.walks.contains w then s else { s with trans := { s.trans with walks := s.trans.walks ++ [w] } }

/-- A walk leaves the lists it is in. -/
def dropWalk (s : State) (w : Walk) : State :=
  { s with trans := { s.trans with walks := s.trans.walks.filter (· != w)
                                   inval := s.trans.inval.map (fun v => (v.1, v.2.1, v.2.2.1, v.2.2.2.filter (· != w))) } }

/-- A walk ends in PAGE_FAULT: the accesses of its die that joined it take the result (R160). -/
def walkFails (s : State) (w : Walk) : State :=
  { s with strands := s.strands.mapVals (fun i st =>
      if st.hold == some (.walk (BitVec.ofNat 12 w.tag) w.page) && regionDie (i / 4) == w.die then { st with walkBad := some w.page } else st) }

/-- A walk ends with a result (R155, R160): the leaf enters the shared TLB of its die and the micro-TLBs of the regions that wait for
it, or the accesses fault. -/
def finishWalk (s : State) (w : Walk) (res : Except (Bool × Nat) (Word × Nat)) : State :=
  let waits := (s.strands.cells.filter (fun c => c.2.hold == some (.walk (BitVec.ofNat 12 w.tag) w.page) && regionDie (c.1 / 4) == w.die)).map (·.1 / 4)
  let s := dropWalk s w
  match res with
  | .ok (leaf, lvl) =>
    let e : Tlb := { tag := w.tag, page := w.page * 65536 / 2 ^ shiftOf lvl, lvl := lvl, leaf := leaf }
    let s := { s with trans := { s.trans with tlb := s.trans.tlb.put w.die (tlbPut (s.trans.tlb.getD w.die []) e 8192) } }
    waits.foldl (fun s r => fillMicro s r e) s
  | .error _ => walkFails s w

/-- Whether an engine's access must wait: its page is in no TLB, and its die has 1024 walks before it (R160). -/
def missBlocked (s : State) (c : Space) (va : Word) (k : Acc) : Bool :=
  match translate s c va k with
  | .miss page =>
    let w : Walk := { die := regionDie c.reg, tag := c.tag, page := page }
    if s.trans.walks.contains w then !walking s w
    else decide (1024 ≤ (s.trans.walks.filter (fun x => x.die == w.die)).length)
  | _ => false

/-- An engine's miss: its walk, or the one it joins, ends now, and the TLBs take the result; a hit fills the micro-TLB (R160). -/
def walkNow (s : State) (c : Space) (va : Word) (k : Acc) : State :=
  match translate s c va k with
  | .miss page =>
    let w : Walk := { die := regionDie c.reg, tag := c.tag, page := page }
    let res := walkTable s c.root va.toNat
    let s := finishWalk s w res
    match res with
    | .ok (leaf, lvl) => fillMicro s c.reg { tag := w.tag, page := w.page * 65536 / 2 ^ shiftOf lvl, lvl := lvl, leaf := leaf }
    | .error _ => s
  | .ok _ _ => touchTlb s c va.toNat
  | _ => s

/-- The die that holds a home key (R157, R158). -/
def keyDie (key : Nat) : Nat :=
  let a := key % 2 ^ 48
  if a ≥ 2 ^ 47 then (a - 2 ^ 47) / 2 ^ 27 % 32 else a / 2 ^ 36 % 32

/-- Whether a home lies on another module (R157, R158). -/
def awayKey (s : State) (key : Nat) : Bool := key / 2 ^ 48 != modN s

/-- Bytes moved count in the accounting class of the leaf, on the die of their home (R156); what moves on another module counts there. -/
def account (s : State) (key : Nat) (pte : Word) (n : Nat) : State :=
  if pte = 0 || awayKey s key then s
  else updDie s (keyDie key) (fun d => { d with acct := d.acct.put (bitsN pte 10 2) (sat64 (d.acct.getD (bitsN pte 10 2) 0 + n)) })

/-- The lowest watched byte that an access of n bytes at `key` touches, as an offset from `key` (R164). -/
def watchHit (s : State) (tag : Nat) (key : Nat) (pte : Word) (n : Nat) (k : Acc) : Option Nat :=
  if !bit pte 5 || key / 2 ^ 48 != modN s then none
  else
    let pa := key % 2 ^ 48
    let fs := (List.range 32).filterMap (fun i => s.trans.watch.find? (keyDie key * 32 + i))
    (List.range n).find? (fun j => fs.any (fun f =>
      bit f 63 && bitsN f 6 42 == (pa + j) / 64 && (bitsN f 60 3 / 2 ^ k.kind) % 2 == 1
        && (bitsN f 48 12 == 0 || bitsN f 48 12 == tag) && bit f (64 + (pa + j) % 64)))

/-! ### Performing stores (R171–R174) -/

def overlaps (k n k' n' : Nat) : Bool := decide (k < k' + n') && decide (k' < k + n)

/-- What fetches of a strand see instead of its own bytes that are performed now (R173): as before, or the byte bound in this phase,
or the home's. -/
def hideBytes (s : State) (i key n : Nat) : List (Nat × Nat × Byte) :=
  (List.range n).map (fun j =>
    let k := key + j
    match s.hidden.find? (fun h => h.1 == k && h.2.1 == i) with
    | some h => h
    | none => (k, i, (((getStrand s i).view.snap.find? k).bind (·.mem)).getD (readByte s k)))

/-- A store of a strand is performed at its home: later fetches of the strand do not see it until a PHASE.ACQ, when none has followed
the store yet (R173). -/
def performBytes (s : State) (i key : Nat) (bs : List Byte) (acq : Bool := false) : State :=
  let h := if acq then [] else hideBytes s i key bs.length
  let s := writeBytes s key bs
  { s with hidden := h ++ s.hidden }

/-- The stores for which a test holds, with the older ones of their strands that they overlap, and the rest: one address sees the stores
of a strand in program order (R174). -/
def splitParts (p : Part → Bool) : List Part → List Part × List Part
  | [] => ([], [])
  | x :: xs =>
    let y := splitParts p xs
    if p x || y.1.any (fun z => z.strand == x.strand && overlaps x.key x.bytes.length z.key z.bytes.length) then (x :: y.1, y.2)
    else (y.1, x :: y.2)

/-- Stores that a strand has released at a narrow scope are performed, oldest first, where a test holds (R172, R174). -/
def performParts (s : State) (p : Part → Bool) : State :=
  if s.part.isEmpty then s
  else
    let y := splitParts p s.part
    y.1.foldl (fun s x => performBytes s x.strand x.key x.bytes x.acq) { s with part := y.2 }

/-- A strand's stores of this module that overlap n bytes at `key`, with the older ones that those overlap, and the rest (R174). -/
def splitStores (key n : Nat) : List Pending → List Pending × List Pending
  | [] => ([], [])
  | x :: xs =>
    let y := splitStores key n xs
    if !x.sent && (overlaps x.key x.bytes.length key n || y.1.any (fun z => overlaps x.key x.bytes.length z.key z.bytes.length)) then (x :: y.1, y.2)
    else (y.1, x :: y.2)

/-- What a strand has stored to n bytes at `key` is performed before an access of its own that goes to their home (R174, R177). -/
def performOwn (s : State) (i key n : Nat) : State :=
  let y := splitStores key n (getStrand s i).view.stores
  let s := performParts s (fun x => x.strand == i && (overlaps x.key x.bytes.length key n
    || y.1.any (fun z => overlaps x.key x.bytes.length z.key z.bytes.length)))
  if y.1.isEmpty then s
  else y.1.foldl (fun s p => performBytes s i p.key p.bytes p.acq) (updStrand s i (fun st => { st with view := { st.view with stores := y.2 } }))

/-- Whether a store released at a scope is performed for an agent of region r, a strand or an engine (R172). -/
def Part.covers (s : State) (x : Part) (r : Nat) (i : Option Nat) : Bool :=
  match x.scope with
  | 0 => x.strand / 4 == r && (match i with | some j => j == x.strand | none => true)
  | 1 => x.strand / 4 == r
  | _ => x.strand / 4 == r || ((teamOf s r).isSome && (teamOf s r).map (·.id) == (teamOf s (x.strand / 4)).map (·.id))

/-- An access by an agent finds performed what was released to it (R172). -/
def seen (s : State) (r : Nat) (i : Option Nat) (key n : Nat) : State :=
  performParts s (fun x => x.covers s r i && overlaps x.key x.bytes.length key n)

/-- Every store of a strand on this module is performed, in program order (R174). -/
def performAll (s : State) (i : Nat) : State :=
  let s := performParts s (fun x => x.strand == i)
  let st := getStrand s i
  if st.view.stores.isEmpty then s
  else
    let s := (st.view.stores.filter (fun p => !p.sent)).foldl (fun s p => performBytes s i p.key p.bytes p.acq) s
    updStrand s i (fun st => { st with view := { st.view with stores := st.view.stores.filter (·.sent) } })

/-- What a strand's snapshot holds after an acquire (R173): its stores that are not yet performed, which fetches see after a PHASE.ACQ. -/
def ownSnap (ps : List Pending) : Assoc Snap :=
  ps.foldl (fun m p => (List.range p.bytes.length).foldl (fun m j =>
    let e := m.getD (p.key + j) {}
    m.put (p.key + j) { e with own := p.bytes[j]?, fet := if p.acq then p.bytes[j]? else e.fet }) m) {}

/-! ### Unfinished instructions (R209, R259) -/

/-- Requests of a strand that it still awaits. -/
def Strand.live (st : Strand) : List Req := st.sent.filter (fun q => !q.gone)

/-- No request and no store of the strand is on its way to another module. -/
def Strand.settled (st : Strand) : Bool := st.live.isEmpty && st.view.stores.all (fun p => !p.sent)

/-- The replay entries of requests: COMPLETE with the value that has arrived, WAIT when it found that it must wait, else REISSUE (R209). -/
def Strand.sentEntries (st : Strand) : List Entry :=
  st.live.map (fun q => match q.val, q.waits with
    | some v, _ => { q.entry with st := 2, opa := v, opb := 0 }
    | none, some v => { q.entry with st := 3, opb := v }
    | none, none => { q.entry with st := 1 })

/-- A frame holds the entries of all requests: none is awaited any more. -/
def Strand.dropSent (st : Strand) : Strand :=
  { st with sent := (st.sent.filter (fun q => !(q.answered || q.over))).map (fun q => { q with gone := true }) }

/-! ### Frames, traps and the firmware -/

/-- The pc logged for a number by the strands of a region (R211). -/
def sitePc (s : State) (r : Nat) (q : Nat) : Option Word :=
  if q = 0 then none
  else (List.range 4).findSome? (fun t =>
    match (getStrand s (r * 4 + t)).cmdlog.find? (q % 1024) with
    | some e => if e.1 == q then some e.2 else none
    | none => none)

/-- The strand of a region whose log holds a number. -/
def siteStrand (s : State) (r : Nat) (q : Nat) : Option Nat :=
  if q = 0 then none
  else ((List.range 4).find? (fun t =>
    match (getStrand s (r * 4 + t)).cmdlog.find? (q % 1024) with | some e => e.1 == q | none => false)).map (r * 4 + ·)

def Entry.words (e : Entry) : List Word :=
  [e.pc, BitVec.ofNat 64 (e.insn.toNat + e.st.toNat * 2 ^ 32), e.opa, e.opb]

def padTo (n : Nat) (l : List Word) : List Word := (l ++ List.replicate (n - l.length) 0).take n

/-- The 80 words of a frame (R208). -/
def frameWords (s : State) (i : Nat) (c : Cause) (asy : Bool) (tpc rpc : Word) (ents : List Entry) (rec : List Word) : List Word :=
  let site := sitePc s (i / 4) c.tseq
  let ents := ents.take 8
  [BitVec.ofNat 64 (c.code.toNat + ents.length * 256 + (if asy then 4096 else 0)), c.tval, tpc,
   BitVec.ofNat 64 (c.tseq + (if c.tseq != 0 && site.isNone then 2 ^ 63 else 0)), site.getD 0, c.asite, rpc,
   (getStrand s i).tstatus]
  ++ padTo 32 (ents.flatMap Entry.words) ++ padTo 34 rec ++ List.replicate 6 0

/-- Own bytes of a strand, as its loads see them (R173). -/
def ownBytes (s : State) (i : Nat) (key : Nat) : List Byte → State
  | [] => s
  | b :: bs =>
    let s' := updStrand s i (fun st =>
      let e := st.view.snap.getD key {}
      { st with view := { st.view with snap := st.view.snap.put key { e with own := some b } } })
    ownBytes s' i (key + 1) bs

def wordsBytes (ws : List Word) : List Byte := ws.flatMap (fun w => toBytes w 8)

/-- Translate each 64-byte block of a frame for writing. -/
def frameKeys (s : State) (c : Space) (fr : Word) (k : Acc) (n : Nat) : Option (List Nat) :=
  (List.range n).mapM (fun j => match translateNow s c (fr + BitVec.ofNat 64 (64 * j)) k with
    | .ok key _ => some key
    | _ => none)

/-- The blocks of a frame, each behind the strand's own earlier stores to it (R174); the strand's snapshot stays as it is, because
delivery is no acquire (R205). -/
def writeBlocks (s : State) (i : Nat) : List Nat → List Byte → State
  | [], _ => s
  | k :: ks, bs => writeBlocks (writeBytes (performOwn s i k 64) k (bs.take 64)) i ks (bs.drop 64)

/-- The frame is written through the strand's TLB, and its bytes are counted (R156, R205). -/
def writeFrame (s : State) (i : Nat) (c : Space) (fr : Word) (keys : List Nat) (ws : List Word) : State :=
  let s := (List.range 10).foldl (fun s j =>
    let va := fr + BitVec.ofNat 64 (64 * j)
    let s := walkNow s c va .write
    match translate s c va .write with | .ok key pte => account s key pte 64 | _ => s) s
  writeBlocks s i keys (wordsBytes ws)

/-- The lowest watched byte that the write of a frame touches (R164). -/
def frameWatch (s : State) (c : Space) (fr : Word) : Option Word :=
  (List.range 10).findSome? (fun j =>
    let va := fr + BitVec.ofNat 64 (64 * j)
    match translateNow s c va .write with
    | .ok key pte => (watchHit s c.tag key pte 64 .write).map (fun n => va + BitVec.ofNat 64 n)
    | _ => none)

/-- Whether a strand runs with supervisor rights in its team's handler (R205, R372). -/
def handlerSvm (s : State) (i : Nat) : Bool := match teamOf s (i / 4) with | some t => t.svm | none => (getStrand s i).spr.svm

def strandSpace (s : State) (i : Nat) : Space :=
  match teamOf s (i / 4) with
  | some t => { t.space (getStrand s i).spr.svm with reg := i / 4 }
  | none => { svm := (getStrand s i).spr.svm, reg := i / 4 }

/-- TAKING AN EXCEPTION (R205): form the frame (R208) with the replay entries of the requests in flight before `ents` (R209), save
cause, value, pc and number, set INH, enter TVEC. None when the frame cannot be written. -/
def deliver (s : State) (i : Nat) (c : Cause) (asy : Bool) (tpc rpc : Word) (ents : List Entry) (rec : List Word := []) : Option State :=
  let st := getStrand s i
  let ws := frameWords s i c asy tpc rpc (st.sentEntries ++ ents) rec
  let sp := { strandSpace s i with svm := handlerSvm s i }
  match frameKeys s sp st.spr.tframe .write 10 with
  | none => none
  | some keys =>
    let hit := frameWatch s sp st.spr.tframe
    let s := writeFrame s i sp st.spr.tframe keys ws
    some (updStrand s i (fun st =>
      let st := st.dropSent
      { st with
        pc := st.spr.tvec
        run := .ready
        hold := none
        walkBad := none
        wait := none
        spr := { st.spr with tcause := ws.getD 0 0, tval := c.tval, tpc := tpc, tseq := ws.getD 3 0, inh := true
                             svm := handlerSvm s i
                             knotrec := if c.code == 0x0B then st.spr.tframe + 320 else st.spr.knotrec }
        traps := { st.traps with replay := [], idleAfter := false, frame := ws, stepDue := st.spr.ss && !asy, watchDue := hit, due := none
                                 pend := if asy then st.traps.pend.tail else st.traps.pend } }))

/-- Strands of this module that entries name as owner: their priorities are to be settled (R87). -/
def ownersOf (s : State) (es : List Teth) : List Nat :=
  es.filterMap (fun e => match e.owner with | some g => if g / 512 == modN s then some (g % 512) else none | none => none)

/-- Tether entries that satisfy a test go, with their walks (R79, R81, R86). -/
def dropEntries (s : State) (p : Teth → Bool) : State :=
  let gone := s.teth.entries.filter p
  if gone.isEmpty then s
  else { s with teth := { s.teth with
    entries := s.teth.entries.filter (fun e => !p e)
    walks := s.teth.walks.filter (fun g => !gone.any (fun e => e.waiter == g))
    dirty := s.teth.dirty ++ ownersOf s gone } }

/-- Tether entries of a waiter go (R81). -/
def dropTether (s : State) (gid : Nat) : State := dropEntries s (fun e => e.waiter == gid)

/-- A wait is over: its implicit entry goes; a USER entry that covered it stays until UNTETHER or R81 removes it (R79, R80). -/
def dropWaitEntry (s : State) (gid : Nat) : State :=
  if s.teth.entries.any (fun e => e.waiter == gid && e.kind == 4) then s else dropTether s gid

/-- Take a strand out of every lock's wait order. -/
def dropLockWait (s : State) (i : Nat) : State :=
  { s with teth := { s.teth with locks := s.teth.locks.mapVals (fun _ l => l.filter (· != i)) } }

/-- A number retires (R277). -/
def retireNumber (s : State) (r q : Nat) : State :=
  updRegion s r (fun g => { g with cmds := { g.cmds with live := g.cmds.live.filter (· != q)
                                                         atOnce := g.cmds.atOnce.filter (fun c => c.num != q)
                                                         queues := g.cmds.queues.mapVals (fun _ l => l.filter (fun c => c.num != q)) } })

/-- A hitch whose started member comes to its end here has no gate any more: its next start needs a new one (R74). -/
def endHitch (s : State) (id : Nat) : State :=
  match (getTeam s id).hitch with
  | some h =>
    let x := s.ost.hitches.getD h {}
    if x.team == some id && x.startedAt then { s with ost := { s.ost with hitches := s.ost.hitches.put h { members := x.members, lead := x.lead } } } else s
  | none => s

/-- KILL, steps 1 to 3 (R222): strands stop and lose their replay queues, no firing starts, the tokens are discarded, the
Carter channels stop and lose their starts, the team is KILLED and the firmware told (R204); a QUIESCE, SAVE or RESTORE of it ends (R220). -/
def beginKill (s : State) (id : Nat) : State :=
  let t := getTeam s id
  let rs := t.regions
  if t.state == .killed || t.state == .retired then s else
  let s := endHitch s id
  let held := match t.state with | .loading | .running | .saving | .retiring => true | _ => false
  let s := if !held then s else
    { s with
      strands := s.strands.mapVals (fun i st => if rs.contains (i / 4) then
        { st with run := .idle, wait := none, hold := some .killed, view := { st.view with stores := st.view.stores.filter (·.sent) }
                  sent := st.sent.map (fun q => { q with gone := true })
                  traps := { st.traps with replay := [], pend := [], fw := none, due := none }, task := none, inTask := false, wbuf := [], wown := {} } else st)
      part := s.part.filter (fun x => !rs.contains (x.strand / 4))
      regions := s.regions.mapVals (fun r g => if rs.contains r then
        { g with carters := g.carters.mapVals (fun _ c => { c.ended with queue := [] })
                 cmds := { g.cmds with queues := {}, atOnce := [], live := [] }
                 ports := g.ports.mapVals (fun _ p => { p with run := none, park := none, part := [] }) } else g)
      tiles := s.tiles.mapVals (fun i t => if rs.contains (i / 256) then { t with reqs := [] } else t)
      chans := s.chans.mapVals (fun _ c => if c.team == id then
        { c with live := false, branches := c.branches.map (fun b => { b with buf := [], flight := [], spill := [] }) } else c) }
  let s := (t.leave.quiesceNum.toList ++ t.leave.quiesceMore ++ t.leave.restoreNum.toList ++ t.leave.saveDue.map (fun q => (q.1, q.2.1))).foldl (fun s q => retireNumber s q.2 q.1) s
  let s := emit s (.event "KILL" [BitVec.ofNat 64 id])
  updTeam s id (fun t => { t with state := .killed, card := none
                                  w := if held then t.w else 0
                                  leave := { t.leave with killAt := s.clock, quiesceNum := none, quiesceMore := [], saveDue := [], restoreNum := none, restoring := false } })

/-- A double trap goes to the firmware, which kills the team and records both causes (R206). -/
def doubleTrap (s : State) (i : Nat) (c : Cause) : State :=
  let id := ((teamOf s (i / 4)).getD {}).id
  let s := emit s (.event "DOUBLE_TRAP" [BitVec.ofNat 64 id, (getStrand s i).spr.tcause, c.code.setWidth 64])
  let s := updStrand s i (fun st => { st with hold := some .killed, run := .idle })
  beginKill s id

/-- Hand a cause to the firmware: the strand is not READY until the firmware returns (R162, R204, R291). -/
def toFirmware (s : State) (i : Nat) (c : Cause) (tpc rpc : Word) (ents : List Entry) : State :=
  let s := updStrand s i (fun st => { st.dropSent with pc := rpc, hold := some .firmware, run := .ready, wait := none,
                                                       traps := { st.traps with fw := some (c, tpc), replay := st.sentEntries ++ ents, due := none } })
  emit s (.event "FAULT" [BitVec.ofNat 64 (gidOf s i), c.code.setWidth 64, c.tval, tpc])

/-- Stop a strand for the debugger, with its frame at TFRAME (R221, R224). -/
def toDebugger (s : State) (i : Nat) (c : Cause) (tpc rpc : Word) (ents : List Entry) : State :=
  let st := getStrand s i
  let ents := st.sentEntries ++ ents
  let ws := frameWords s i c false tpc rpc ents []
  let sp := { strandSpace s i with svm := handlerSvm s i }
  let keys := frameKeys s sp st.spr.tframe .write 10
  let hit := if keys.isSome then frameWatch s sp st.spr.tframe else none
  let s := match keys with
    | some keys => writeFrame s i sp st.spr.tframe keys ws
    | none => s
  let s := updStrand s i (fun st => { st.dropSent with pc := rpc, run := .stopped, hold := none, wait := none,
                                                       traps := { st.traps with replay := ents, frame := ws, stepDue := false, watchDue := hit, due := none } })
  emit s (.event "DEBUG_STOP" [BitVec.ofNat 64 (gidOf s i), ws.getD 0 0, tpc, ws.getD 3 0, ws.getD 4 0])

/-- Whether a strand is in a task that is not committed (R73). -/
def inOpenTask (s : State) (i : Nat) : Bool :=
  match (getStrand s (i / 4 * 4)).task with
  | some k => !k.committed && (i % 4 == 0 || (getStrand s i).inTask)
  | none => false

/-- The die whose queue takes a retried task of a region (R72): its own, or, where the team has no other region there, the next die that
holds a region of the team (log 16). -/
def retryDie (t : Team) (r : Nat) : Nat :=
  let others := (t.regions.filter (· != r)).map regionDie
  if others.isEmpty || others.contains (regionDie r) then regionDie r
  else match others.find? (fun d => decide (regionDie r < d)) with
    | some d => d
    | none => others.headD (regionDie r)

/-- The tasks of a chunk that a region has not run go back to be dealt, with the one it runs when it is given (R73). -/
def returnTasks (c : Card) (t : Team) (r : Nat) (k : Task) (self : Bool) : Card :=
  let back (n att : Nat) : Retry := { die := retryDie t r, index := n, attempt := att, last := r, dealt := true }
  { c with queue := c.queue ++ (if self then [back k.index k.attempt] else []) ++ (List.range k.rest).map (fun n => back (k.index + 1 + n) 0) }

/-- Put a faulted task and the rest of its chunk into the retry queue of its die (R72, R73). -/
def requeue (c : Card) (t : Team) (r : Nat) (k : Task) : Card :=
  let c := returnTasks c t r k false
  if c.retry < k.attempt + 1 then { c with failed := c.failed.orElse (fun _ => some k.index), remaining := 0, queue := c.queue.filter (·.dealt) }
  else if c.failed.isSome then c
  else { c with queue := c.queue ++ [{ die := retryDie t r, index := k.index, attempt := k.attempt + 1, last := r, dealt := false }]
                used := min (c.used + 1) (2 ^ 24 - 1) }

/-- A strand of a task stops (R73, R81): what it issued before the task still takes effect (R174). -/
def leaveTask (s : State) (j : Nat) : State :=
  dropTether (dropLockWait (updStrand s j (fun st => { st.dropSent with run := .idle, wait := none, hold := none, inTask := false,
                                                                         traps := { st.traps with replay := [], due := none } })) j) (gidOf s j)

/-- A task fault (R73): the buffer is discarded, the task's strands become IDLE and the task is queued for retry with its attempt
number increased, or strand 0 takes TASK_RETRY_EXHAUSTED. -/
def taskFault (s : State) (i : Nat) : State :=
  let r := i / 4
  let z := r * 4
  match (getStrand s z).task, teamOf s r with
  | some k, some t =>
    let s := (List.range 4).foldl (fun s n =>
      let j := z + n
      if n == 0 || (getStrand s j).inTask then leaveTask s j else s) s
    let s := updStrand s z (fun st => { st with task := none, wbuf := [], wown := {}, view := { st.view with snap := ownSnap st.view.stores } })
    let s := updTeam s t.id (fun t => { t with card := t.card.map (fun c => requeue c t r k) })
    match t.card with
    | some c =>
      if k.attempt + 1 ≤ c.retry then s
      else
        let cause : Cause := { code := 0x17, tval := BitVec.ofNat 64 k.index }
        let st := getStrand s z
        if st.spr.inh || st.spr.tvec == 0 then doubleTrap s z cause
        else match deliver s z cause false st.pc 0 [] with
          | some s => s
          | none => doubleTrap s z cause
    | none => s
  | _, _ => s

/-- A cause bound for the team handler (R205, R206). -/
def toTeam (s : State) (i : Nat) (c : Cause) (tpc rpc : Word) (ents : List Entry) (rec : List Word := []) : State :=
  let st := getStrand s i
  if st.spr.inh || st.spr.tvec == 0 then doubleTrap s i c
  else match deliver s i c false tpc rpc ents rec with
    | some s => s
    | none => doubleTrap s i c

/-- The replay entry of the instruction in progress (R209). -/
def curEntry (s : State) (st : BitVec 3) (a b : Word) : Entry := { pc := s.cur.pc, insn := s.cur.insn, st := st, opa := a, opb := b }

/-- Where fetch resumes after the instruction in progress. -/
def nextPc (s : State) : Word := if s.cur.cap.isSome then (self s).pc else s.cur.pc + 4

/-- Fields d, a and b of a word. -/
def fieldA (w : Word32) : Reg := bits w 16 5
def fieldB (w : Word32) : Reg := bits w 11 5
def fieldD (w : Word32) : Reg := bits w 21 5

/-- Captured operands of the instruction in progress: a and b, or the base and the store data of F-MEM, or a and b of F-BR
(R209, R232). -/
def captured (s : State) : Word × Word :=
  match s.cur.cap with
  | some x => x
  | none =>
    let st := self s
    let w := s.cur.insn
    let op := bitsN w 26 6
    if decide (0x10 ≤ op) && decide (op ≤ 0x15) then (st.reg (fieldD w), st.reg (fieldA w))
    else if decide (0x20 ≤ op) && decide (op ≤ 0x27) then (st.reg (fieldA w), 0)
    else if decide (0x28 ≤ op) && decide (op ≤ 0x2B) then (st.reg (fieldA w), st.reg (fieldD w))
    else if decide (0x02 ≤ op) && decide (op ≤ 0x1A) then (st.reg (fieldA w), 0)
    else (st.reg (fieldA w), st.reg (fieldB w))

/-- A trap raised while requests are in flight: no later instruction issues, and the frame waits for their responses (R205, R209). -/
def raiseLater (s : State) (i : Nat) (d : Due) : State :=
  updStrand s i (fun st => { st with hold := some .response, run := .ready, pc := d.rpc, traps := { st.traps with due := some d, replay := [] } })

/-- MTS, TASKEND, TEAMEND, TRAP, RTE and BKPT are finished at issue: they leave no entry (R259). -/
def doneAtIssue (w : Word32) : Bool :=
  bitsN w 26 6 == 0x1A || bitsN w 26 6 == 0x37 || (bitsN w 26 6 == 0x35 && (bitsN w 0 8 == 2 || bitsN w 0 8 == 3))

/-- A sync cause of the instruction in progress (R204): a task fault in an uncommitted task, else to the firmware, the debugger or
the team. `issued`: the instruction stays as a REISSUE entry; a decode fault, a fetch fault, QUOTA and the instructions that are finished
at issue leave none. -/
def raiseSync (s : State) (code : Byte) (tval : Word) (walked issued : Bool) (tseq : Nat := 0) : State :=
  let i := me s
  let c : Cause := { code := code, tval := tval, tseq := tseq }
  let rest := (self s).traps.replay
  let issued := issued && !doneAtIssue s.cur.insn
  let x := captured s
  let ents := if issued then curEntry s 1 x.1 x.2 :: rest else rest
  let rpc := if issued then nextPc s else if s.cur.cap.isSome then (self s).pc else s.cur.pc
  let taskCode := code == 0x01 || code == 0x02 || code == 0x03 || code == 0x05
  if inOpenTask s i && taskCode then taskFault s i
  else if !(self s).live.isEmpty then
    let dest := if code == 0x04 || (code == 0x05 && walked) then 1 else if code == 0x07 && (self s).spr.dba then 2 else 0
    raiseLater s i { cause := c, tpc := s.cur.pc, rpc := rpc, ents := ents, dest := dest }
  else if code == 0x04 || (code == 0x05 && walked) then toFirmware s i c s.cur.pc rpc ents
  else if code == 0x07 && (self s).spr.dba then toDebugger s i c s.cur.pc rpc ents
  else toTeam s i c s.cur.pc rpc ents

/-- A strand of a team that is being saved has stopped issue (R216): its replay queue is formed as if trapped, with TCAUSE 0x1A. -/
def closeNow (s : State) (i : Nat) (d : Due) : State :=
  let ents := (getStrand s i).sentEntries ++ d.ents
  let ws := frameWords s i d.cause false d.tpc d.rpc ents []
  updStrand s i (fun st => { st.dropSent with run := .ready, hold := some .closed, walkBad := none,
                                              traps := { st.traps with replay := ents, frame := ws, due := none } })

/-- The frame of a trap that waited for responses is written now (R209). -/
def deliverDue (s : State) (i : Nat) : State :=
  match (getStrand s i).traps.due with
  | some d =>
    match d.dest with
    | 0 => toTeam s i d.cause d.tpc d.rpc d.ents d.knot
    | 1 => toFirmware s i d.cause d.tpc d.rpc d.ents
    | 3 => closeNow s i d
    | _ => toDebugger s i d.cause d.tpc d.rpc d.ents
  | none => s

/-- Shorthands. -/
def trapIllegal (s : State) : State := raiseSync s 0x01 (s.cur.insn.setWidth 64) false false
def trapReserved (s : State) : State := raiseSync s 0x02 (s.cur.insn.setWidth 64) false false
def trapReservedOperand (s : State) : State := raiseSync s 0x02 (s.cur.insn.setWidth 64) false true
def trapMisalign (s : State) (va : Word) : State := raiseSync s 0x03 va false true
def trapProtection (s : State) (v : Word) : State := raiseSync s 0x05 v false true
def trapPrivileged (s : State) : State := raiseSync s 0x05 (s.cur.insn.setWidth 64) false false

/-- A region becomes SUSPECT (R215): RETIRED and SUSPECT stand. -/
def suspect (s : State) (r : Nat) : State := updRegion s r (fun g => { g with lr := if g.lr == 3 then g.lr else if g.lr == 2 then 2 else 1 })

/-- An uncorrectable error read by an engine of a team (R215): the team is killed and its regions become SUSPECT. -/
def engineCheck (s : State) (id : Nat) (va : Word) : State :=
  let s := (getTeam s id).regions.foldl suspect s
  let s := emit s (.event "MACHINE_CHECK" [BitVec.ofNat 64 id, va])
  beginKill (emit s (.msix 3)) id

/-- An uncorrectable error read by a strand (R215): in an uncommitted task the task is retried, otherwise the team is killed; its
regions become SUSPECT. -/
def machineCheck (s : State) (i : Nat) (tval : Word) : State :=
  if inOpenTask s i then taskFault (suspect s (i / 4)) i
  else match teamOf s (i / 4) with
    | some t => engineCheck s t.id tval
    | none => updStrand (suspect s (i / 4)) i (fun st => { st with run := .idle, hold := some .killed })

/-! ### Ending an instruction -/

/-- TEAM_RETIRE (R69): every strand IDLE, at least one TEAMEND, no active job card: the team enters RETIRING, which closes its
ingress and feeds. -/
def tryRetire (s : State) (id : Nat) : State :=
  let t := getTeam s id
  let ss := t.regions.flatMap (fun r => (List.range 4).map (fun n => getStrand s (r * 4 + n)))
  if t.state == .running && t.card.isNone && ss.all (fun st => st.run == .idle) && ss.any (·.ended) then
    updTeam s id (fun t => { t with state := .retiring, leave := { t.leave with closed := true, rstep := 1 } })
  else s

/-- A cause that comes after an instruction (R164, R221), to the firmware or the debugger: behind requests in flight its frame waits
for their responses (R209). -/
def raiseAfter (s : State) (i : Nat) (c : Cause) (debug : Bool) : State :=
  let st := getStrand s i
  if st.traps.due.isSome then s
  else if !st.live.isEmpty then raiseLater s i { cause := c, tpc := st.pc, rpc := st.pc, ents := st.traps.replay, dest := if debug then 2 else 1 }
  else if debug then toDebugger s i c st.pc st.pc st.traps.replay
  else toFirmware s i c st.pc st.pc st.traps.replay

/-- The instruction in progress has completed (R221): the pc moves on, a watch hit (R164) or a STEP is raised. -/
def stepOrWatch (s : State) (i : Nat) (tseq : Nat) : State :=
  let st := getStrand s i
  if st.run == .idle then s
  else
    match s.cur.watch with
    | some va =>
      if st.spr.ss then raiseAfter s i { code := 0x08, tval := BitVec.ofNat 64 (2 ^ 63 + bitsN va 0 57), tseq := tseq } true
      else raiseAfter s i { code := 0x06, tval := va } st.spr.dba
    | none => if st.spr.ss then raiseAfter s i { code := 0x08, tseq := tseq } true else s

/-- Move past the instruction in progress. A re-injected entry leaves the pc; with RPC = 0 the strand goes IDLE after the last
entry (R210). -/
def movePc (s : State) : State :=
  let st := self s
  if s.cur.cap.isSome then
    if st.traps.due.isSome then s
    else if st.traps.replay.isEmpty && st.traps.idleAfter then
      tryRetire (updSelf s (fun st => { st with run := .idle, hold := none, traps := { st.traps with idleAfter := false } })) (myTeam s).id
    else updSelf s (fun st => { st with hold := none })
  else updSelf s (fun st => { st with pc := s.cur.pc + 4, hold := none })

def advance (s : State) (tseq : Nat := 0) : State := stepOrWatch (movePc s) (me s) tseq

/-- Continue at a target (R262): a re-injected jump continues at RPC. -/
def jumpTo (s : State) (target : Word) : State :=
  if s.cur.cap.isSome then advance s
  else stepOrWatch (updSelf s (fun st => { st with pc := target, hold := none })) (me s) 0

/-- The instruction has issued and is held before any effect: the strand is not READY, and the instruction stands unfinished as a
REISSUE entry with its captured operands (R209, R259); one that leaves no entry issues again at its pc, and is not charged again. -/
def holdSelf (s : State) (h : Hold) : State :=
  let x := captured s
  if doneAtIssue s.cur.insn && s.cur.cap.isNone then updSelf s (fun st => { st with hold := some h, traps := { st.traps with paid := true } }) else
  updSelf s (fun st => { st with hold := some h, pc := nextPc s, traps := { st.traps with replay := { curEntry s 1 x.1 x.2 with paid := true } :: st.traps.replay } })

/-- The strand is not READY before its next instruction has issued, or at a TASKEND, which leaves no entry (R161, R259, R286): it
issues there again. -/
def holdAtPc (s : State) (h : Hold) : State :=
  updSelf s (fun st => match s.cur.cap with
    | some x => { st with hold := some h, traps := { st.traps with replay := curEntry s 1 x.1 x.2 :: st.traps.replay } }
    | none => { st with hold := some h })

/-! ### What a strand sees of memory (R173–R178) -/

/-- Latest byte of a strand's stores not yet performed. -/
def pendingByte (st : Strand) (key : Nat) : Option Byte :=
  st.view.stores.foldl (fun acc p => if decide (p.key ≤ key) && decide (key < p.key + p.bytes.length) then p.bytes[key - p.key]? else acc) none

/-- Byte of the task write buffer (R73). -/
def wbufByte (s : State) (i key : Nat) : Option Byte :=
  if inOpenTask s i then
    match (getStrand s (i / 4 * 4)).wbuf.find? (fun l => l.1 == key / 64) with
    | some l => (l.2[key % 64]?).join
    | none => none
  else none

/-- Bind the aligned 8 bytes that hold `key`, where they are not bound yet: no load finds part of them old and part new (R171, R173). -/
def bindGranule (s : State) (i : Nat) (key : Nat) : State :=
  let s := seen s (i / 4) (some i) (key / 8 * 8) 8
  updStrand s i (fun st => { st with view := { st.view with snap := (List.range 8).foldl (fun m j =>
    let k := key / 8 * 8 + j
    let e := m.getD k {}
    match e.mem with
    | some _ => m
    | none => m.put k { e with mem := some (readByte s k) }) st.view.snap } })

/-- A byte has been returned to the strand in this phase (R173). -/
def markRead (s : State) (i : Nat) (key : Nat) : State :=
  updStrand s i (fun st => { st with view := { st.view with snap := st.view.snap.put key { (st.view.snap.getD key {}) with read := true } } })

/-- The byte of the snapshot: bound in this phase, else bound now (R173). -/
def snapByte (s : State) (i : Nat) (key : Nat) : Byte × State :=
  match ((getStrand s i).view.snap.find? key).bind (·.mem) with
  | some b => (b, markRead s i key)
  | none => (readByte s key, markRead (bindGranule s i key) i key)

/-- An ordinary load of one byte (R173): the task buffer, the strand's own store, the value bound in this phase, else the home now,
which is then bound. -/
def loadByte (s : State) (i : Nat) (key : Nat) : Byte × State :=
  let st := getStrand s i
  match wbufByte s i key with
  | some b => (b, s)
  | none =>
    match ((st.view.snap.find? key).bind (·.own)).orElse (fun _ => pendingByte st key) with
    | some b => (b, s)
    | none => snapByte s i key

def loadBytes (s : State) (i : Nat) (key : Nat) : Nat → List Byte × State
  | 0 => ([], s)
  | n + 1 =>
    let x := loadByte s i key
    let y := loadBytes x.2 i (key + 1) n
    (x.1 :: y.1, y.2)

/-- A fetch of one byte: as a load, but without the strand's own stores until a PHASE.ACQ (R173, R265). -/
def fetchByte (s : State) (i : Nat) (key : Nat) : Byte × State :=
  match ((getStrand s i).view.snap.find? key).bind (·.fet) with
  | some b => (b, s)
  | none =>
    match s.hidden.find? (fun h => h.1 == key && h.2.1 == i) with
    | some h =>
      let put (m : Assoc Snap) : Assoc Snap := m.put key { (m.getD key {}) with fet := some h.2.2 }
      (h.2.2, updStrand s i (fun st => { st with view := { st.view with snap := put st.view.snap } }))
    | none => snapByte s i key

def fetchBytes (s : State) (i : Nat) (key : Nat) : Nat → List Byte × State
  | 0 => ([], s)
  | n + 1 =>
    let x := fetchByte s i key
    let y := fetchBytes x.2 i (key + 1) n
    (x.1 :: y.1, y.2)

/-- Loads of the strand see its own store (R173). -/
def noteStore (s : State) (i : Nat) (key : Nat) (bs : List Byte) : State := ownBytes s i key bs

/-- A store of a strand at its home, behind its earlier stores of those bytes (R174): its loads see it, its fetches not yet. -/
def storeNow (s : State) (i : Nat) (key : Nat) (bs : List Byte) : State :=
  noteStore (performBytes (performOwn s i key bs.length) i key bs) i key bs

/-- A store to another module leaves as a C3 packet; it is performed when it is acknowledged (R157, R174). -/
def storeAway (s : State) (i : Nat) (key : Nat) (bs : List Byte) : State :=
  let t := (teamOf s (i / 4)).getD {}
  let s := noteStore s i key bs
  let s := updStrand s i (fun st => { st with view := { st.view with stores := st.view.stores ++ [{ key := key, bytes := bs, sent := true }] } })
  let s := sendC3 s i t.atag (keyDie key) key bs.length 11 false false bs
  updTeam s t.id (fun t => { t with flying := t.flying + 1 })

/-- Strand 0 of a region and the strands that its task has started (R285). -/
def taskStrands (s : State) (z : Nat) : List Nat := ((List.range 4).filter (fun n => n == 0 || (getStrand s (z + n)).inTask)).map (z + ·)

/-- The loads of a task's strands go on seeing what its buffer held (R73, R173). -/
def noteTask (s : State) (z : Nat) (key : Nat) (bs : List Byte) : State := (taskStrands s z).foldl (fun s j => ownBytes s j key bs) s

/-- Stores of the task buffer that go to another module. -/
def awayLines (s : State) (z : Nat) : List (Nat × List (Option Byte)) := (getStrand s z).wbuf.filter (fun l => awayKey s (l.1 * 64))

/-- Maximal runs of written bytes of a masked line, none across an aligned 8-byte word: place and bytes. `run`: the bytes of the run that
ends before place `n`. -/
def maskRuns : List (Option Byte) → Nat → List Byte → List (Nat × List Byte)
  | [], n, run => if run.isEmpty then [] else [(n - run.length, run)]
  | none :: l, n, run => (if run.isEmpty then [] else [(n - run.length, run)]) ++ maskRuns l (n + 1) []
  | some b :: l, n, run =>
    if n % 8 == 0 && !run.isEmpty then (n - run.length, run) :: maskRuns l (n + 1) [b] else maskRuns l (n + 1) (run ++ [b])

/-- The lines of the task buffer that go to another module are sent (R73, R157). -/
def sendBuffer (s : State) (z : Nat) : State :=
  let ls := awayLines s z
  let s := updStrand s z (fun st => { st with wbuf := st.wbuf.filter (fun l => !ls.contains l) })
  ls.foldl (fun s l => (maskRuns l.2 0 []).foldl (fun s x => noteTask (storeAway s z (l.1 * 64 + x.1) x.2) z (l.1 * 64 + x.1) x.2) s) s

/-- A masked line of the task buffer is performed, each byte as a store of the strand that made it (R73, R173). -/
def flushLine (s : State) (z key : Nat) : List (Option Byte) → State
  | [] => s
  | none :: l => flushLine s z (key + 1) l
  | some b :: l => flushLine (noteTask (performBytes s ((getStrand s z).wown.getD key z) key [b]) z key [b]) z (key + 1) l

/-- Write the task write buffer out (R73), behind what its strands stored before (R174). -/
def flushBuffer (s : State) (z : Nat) : State :=
  let s := (taskStrands s z).foldl performAll s
  let s := sendBuffer s z
  let s := (getStrand s z).wbuf.foldl (fun s l => flushLine s z (l.1 * 64) l.2) s
  updStrand s z (fun st => { st with wbuf := [], wown := {} })

def setMasked : List (Option Byte) → Nat → List Byte → List (Option Byte)
  | l, _, [] => l
  | l, n, b :: bs => setMasked (l.set n (some b)) (n + 1) bs

/-- Store bytes within one 64-byte line into the task buffer; a 65th line writes the buffer out and commits the task. -/
def bufferStore (s : State) (i key : Nat) (bs : List Byte) : State :=
  let z := i / 4 * 4
  let w := (getStrand s z).wbuf
  let line := key / 64
  let own (m : Assoc Nat) : Assoc Nat := (List.range bs.length).foldl (fun m j => m.put (key + j) i) m
  if w.any (fun l => l.1 == line) then
    updStrand s z (fun st => { st with wbuf := w.map (fun l => if l.1 == line then (l.1, setMasked l.2 (key % 64) bs) else l), wown := own st.wown })
  else if decide (w.length < 64) then
    updStrand s z (fun st => { st with wbuf := w ++ [(line, setMasked (List.replicate 64 none) (key % 64) bs)], wown := own st.wown })
  else
    let s := flushBuffer s z
    let s := updStrand s z (fun st => { st with task := st.task.map (fun k => { k with committed := true }) })
    if awayKey s key then storeAway s i key bs else storeNow s i key bs

/-- An ordinary store of a strand (R73, R174): buffered in an uncommitted task; sent to another module's home; performed at its home
at once, or later when the schedule defers the strand's stores. -/
def storeBytes (s : State) (i : Nat) (key : Nat) (bs : List Byte) : State :=
  if inOpenTask s i then bufferStore s i key bs
  else if awayKey s key then storeAway s i key bs
  else
    let st := getStrand s i
    if st.view.defer then
      noteStore (setStrand s i { st with view := { st.view with stores := st.view.stores ++ [{ key := key, bytes := bs }] } }) i key bs
    else storeNow s i key bs

/-- A release at a scope (R172, R174, R176): at MODULE and SYSTEM every earlier store is performed; at a narrower scope each is performed
for the agents the scope covers, and for the others later. -/
def release (s : State) (i : Nat) (scope : Nat) : State :=
  if 3 ≤ scope then performAll s i
  else
    let st := getStrand s i
    if st.view.stores.isEmpty && s.part.isEmpty then s
    else
      let new : List Part := (st.view.stores.filter (fun p => !p.sent)).map (fun p => { strand := i, scope := scope, key := p.key, bytes := p.bytes, acq := p.acq })
      let s := { s with part := s.part.map (fun x => if x.strand == i then { x with scope := max x.scope scope } else x) ++ new }
      updStrand s i (fun st => { st with view := { st.view with stores := st.view.stores.filter (·.sent) } })

/-- An acquire (R173): the snapshot is discarded; fetches still do not see the strand's own stores. -/
def acquire (s : State) (i : Nat) : State := updStrand s i (fun st => { st with view := { st.view with snap := ownSnap st.view.stores } })

/-- PHASE.ACQ: fetches see the strand's own stores too (R173, R176). -/
def acquirePhase (s : State) (i : Nat) : State :=
  let s := updStrand s i (fun st => { st with view := { st.view with stores := st.view.stores.map (fun p => { p with acq := true }) } })
  let s := acquire { s with part := s.part.map (fun x => if x.strand == i then { x with acq := true } else x) } i
  if s.hidden.isEmpty then s else { s with hidden := s.hidden.filter (fun h => h.2.1 != i) }

/-- A phase ends without an acquire: no byte counts as read in the new phase (R173). -/
def endPhase (s : State) (i : Nat) : State :=
  updStrand s i (fun st => { st with view := { st.view with snap := st.view.snap.mapVals (fun _ e => { e with read := false }) } })

/-! ### Accesses of the strand in progress -/

/-- Operation code of a request in a C3 header (log 21): an AMO's own, 9 CAS, 10 a load, 12 any other. -/
def c3Op (w : Word32) (k : Acc) : Nat :=
  let op := bitsN w 26 6
  if op == 0x30 then bitsN w 0 4 else if op == 0x31 then 9 else if k == .read then 10 else 12

/-- An access to another module leaves as a C3 packet (R26, R157); the instruction has issued and is unfinished until its response
comes. It is held while an atomic of the strand to the same bytes is on its way (R177). -/
def sendAway (s : State) (key n : Nat) (k : Acc) : State :=
  let i := me s
  let st := self s
  if st.live.any (fun q => q.effect && overlaps q.key q.bytes key n) then holdSelf s .sent
  else
    let w := s.cur.insn
    let x := captured s
    let t := myTeam s
    let op := bitsN w 26 6
    let sync := !(decide (0x20 ≤ op) && decide (op ≤ 0x27)) && !((op == 0x30 || op == 0x31) && bitsN w 4 2 == 0)
    let q : Req := { entry := { curEntry s 1 x.1 x.2 with paid := true }, key := key, bytes := n, effect := sync || k != .read, sync := sync }
    let data := if k == .read then [] else toBytes x.2 8 ++ (if op == 0x31 then toBytes (st.reg (fieldD w)) 8 else [])
    let atomic := op == 0x30 || op == 0x31
    let s := sendC3 s i t.atag (keyDie key) key n (c3Op w k) (atomic && bit w 4) (atomic && bit w 5) data
    let s := updTeam s t.id (fun t => { t with flying := t.flying + 1 })
    updSelf s (fun st => { st with sent := st.sent ++ [q], pc := nextPc s, hold := none })

/-- Where an access of the strand in progress goes: a request whose response has come stays at its home (R157). -/
def reach (s : State) (c : Space) (va : Word) (n : Nat) (k : Acc) : Xl :=
  match s.cur.home with
  | none => translate s c va k
  | some key =>
    if n ≤ 16 then .ok key 0
    else match translateNow s c va k with
      | .ok key pte => .ok key pte
      | _ => .ok key 0

/-- Translate an access of the strand in progress and continue with its home key; otherwise the strand holds for the walk (R161)
or traps. -/
def withKey (s : State) (va : Word) (n : Nat) (k : Acc) (cont : Nat → State → State) : State :=
  let i := me s
  let c := strandSpace s i
  if s.cur.denied then trapProtection s va
  else match reach s c va n k with
  | .ok key pte =>
    let s := match watchHit s c.tag key pte n k with
      | some j => { s with cur := { s.cur with watch := some (s.cur.watch.getD (va + BitVec.ofNat 64 j)) } }
      | none => s
    let s := account (touchTlb s c va.toNat) key pte n
    if awayKey s key then
      if k == .write || s.cur.home.isSome then cont key s else sendAway s key n k
    else if k != .write && poisoned s key n then machineCheck s i va
    else cont key (seen (if k == .atomic then performOwn s i key n else s) (i / 4) (some i) key n)
  | .cart _ => trapProtection s va
  | .miss page =>
    if (self s).walkBad == some page then raiseSync (updSelf s (fun st => { st with walkBad := none })) 0x04 va true true
    else
    holdSelf (startWalk s { die := regionDie (i / 4), tag := c.tag, page := page }) (.walk (BitVec.ofNat 12 c.tag) page)
  | .bad code walked _ _ => raiseSync s code va walked true

/-- An access that must be aligned to its size. -/
def withAligned (s : State) (va : Word) (n : Nat) (k : Acc) (cont : Nat → State → State) : State :=
  if va.toNat % n != 0 then trapMisalign s va else withKey s va n k cont

/-! ### Numbers (R211, R268) -/

/-- Take the next number of the region for the strand in progress and log its pc. -/
def takeNumber (s : State) : Nat × State :=
  let r := s.cur.reg.toNat
  let q := (getRegion s r).cmds.seq
  let s := updRegion s r (fun g => { g with cmds := { g.cmds with seq := if q + 1 = 2 ^ 48 then 1 else q + 1, live := q :: g.cmds.live } })
  (q, updSelf s (fun st => { st with cmdlog := st.cmdlog.put (q % 1024) (q, s.cur.pc) }))

/-! ### Waiting (R79, R209) -/

/-- The strand in progress waits: it is WAITING, and the pc is past the instruction. A request that finds at its home that it must wait
while a trap waits for it leaves a WAIT entry instead (R209). -/
def waitSelf (s : State) (on : WaitOn) (d : Reg) (opb : Word) : State :=
  let x := captured s
  let pc := nextPc s
  if landing s then updSelf s (fun st => { st with sent := parkReq opb st.sent }) else
  updSelf s (fun st => { st with run := .waiting, hold := none, pc := pc
                                 wait := some { on := on, dst := d, pc := s.cur.pc, insn := s.cur.insn, opa := x.1, opb := opb, watch := s.cur.watch } })

/-- A wait completes: the destination is written and the strand is READY again. -/
def endWait (s : State) (i : Nat) (v : Word) : State :=
  match (getStrand s i).wait with
  | some w =>
    let s := dropWaitEntry s (gidOf s i)
    let idle := (getStrand s i).traps.replay.isEmpty && (getStrand s i).traps.idleAfter
    let s := updStrand s i (fun st =>
      { st.setReg w.dst v with wait := none, run := if idle then .idle else .ready,
                               traps := { st.traps with idleAfter := st.traps.idleAfter && !idle } })
    let s := if idle then tryRetire s ((teamOf s (i / 4)).getD {}).id else s
    let s' := stepOrWatch { s with cur := { s.cur with watch := w.watch } } i 0
    { s' with cur := s.cur }
  | none => s

/-- Object key of a memory word (R78). OBJ[47:0] of a word in a slice is 2^47 plus its offset in the slice window (DESIGN CHOICE: R157 defines physical
addresses for HBM only; log 12). -/
def memObj (key : Nat) : Word := BitVec.ofNat 64 (key / 2 ^ 48 * 2 ^ 51 + key % 2 ^ 48)
/-- Object key of a barrier. -/
def barObj (s : State) (team scope : Nat) : Word := BitVec.ofNat 64 (modN s * 2 ^ 51 + 2 ^ 48 + team % 2 ^ 40 * 256 + scope)
/-- Object key of a port. -/
def portObj (s : State) (p : Nat) : Word := BitVec.ofNat 64 (modN s * 2 ^ 51 + 2 * 2 ^ 48 + p)

/-- The object a strand waits on; CWAIT waits on none (R79). -/
def waitObj (s : State) (i : Nat) : WaitOn → Option Word
  | .bar sc _ _ => some (barObj s ((teamOf s (i / 4)).getD {}).id sc.toNat)
  | .lock key | .counter key _ => some (memObj key)
  | .queue p => some (portObj s p)
  | .cwait _ => none

/-- A wait is abandoned into a WAIT entry (R209): the entry of the wait, or the USER entry that covers it, goes (R81); a barrier keeps the
arrival (R273). -/
def abandonWait (s : State) (i : Nat) : State × List Entry :=
  match (getStrand s i).wait with
  | some w =>
    let opb := match w.on with
      | .bar _ e _ => BitVec.ofNat 64 (2 ^ 63 + e)
      | _ => w.opb
    let obj := waitObj s i w.on
    let s := dropLockWait (dropEntries s (fun e => e.waiter == gidOf s i && some e.obj == obj)) i
    (updStrand s i (fun st => { st with wait := none, run := .ready }),
     [{ pc := w.pc, insn := w.insn, st := 3, opa := w.opa, opb := opb }])
  | none => (s, [])

/-! ### Async causes (R212) -/

/-- Raise an async cause for a strand: it is pending until it can be delivered. False when 16 are pending already. -/
def pendAsync (s : State) (i : Nat) (c : Cause) : Bool × State :=
  if decide (16 ≤ (getStrand s i).traps.pend.length) then (false, s)
  else (true, updStrand s i (fun st => { st with traps := { st.traps with pend := st.traps.pend ++ [c] } }))

/-- The strand that receives a cause of numbered work of a region: the one whose log holds the number, else strand 0. -/
def causeStrand (s : State) (r q : Nat) : Nat := (siteStrand s r q).getD (r * 4)

/-- Raise the causes of parked actors that found 16 pending, where a place is free now (R212). -/
def raiseParked (s : State) : State :=
  s.tiles.cells.foldl (fun s k => k.2.ctxs.cells.foldl (fun s c => c.2.actors.cells.foldl (fun s a =>
    match a.2.owed, a.2.trapped with
    | true, some cause =>
      let x := pendAsync s (causeStrand s (k.1 / 256) cause.tseq) cause
      if x.1 then updTile x.2 (k.1 / 256) (k.1 % 256) (fun t => match t.ctxs.find? c.1 with
        | some cc => match cc.actors.find? a.1 with
          | some act => { t with ctxs := t.ctxs.put c.1 { cc with actors := cc.actors.put a.1 { act with owed := false } } }
          | none => t
        | none => t) else s
    | _, _ => s) s) s) s

/-- Raise what channels and landing rings owe, where a place is free now (R42, R137, R212): a ring's cause waits while its team is saved. -/
def raiseRings (s : State) : State :=
  let s := s.chans.cells.foldl (fun s k => (List.range k.2.branches.length).foldl (fun s n =>
    match (k.2.branches.getD n {}).st.owed with
    | some o =>
      let x := pendAsync s o.1 o.2
      if x.1 then setChan x.2 k.1 { getChan x.2 k.1 with branches := (getChan x.2 k.1).branches.modify n (fun b => { b with st := { b.st with owed := none } }) } else s
    | none => s) s) s
  s.host.ports.cells.foldl (fun s k =>
    match k.2.owed with
    | some o =>
      let t := getTeam s o.1
      if t.holds (t.y * 16 + t.x) && t.state != .killed then
        let x := pendAsync s ((t.y * 16 + t.x) * 4) o.2
        if x.1 then setIPort x.2 k.1 { k.2 with owed := none } else s
      else s
    | none => s) s

/-- Raise every cause that found 16 pending, where a place is free now (R212). -/
def raiseOwed (s : State) : State := raiseRings (raiseParked s)

/-- Whether the oldest pending cause of a strand may be delivered now: not while its team is being saved (R220) or loaded (R219), nor
while a request with an effect has no response (R209). -/
def asyncReady (s : State) (i : Nat) : Bool :=
  let st := getStrand s i
  !st.traps.pend.isEmpty && !st.spr.inh && st.run != .stopped && st.spr.tvec != 0 && !st.traps.blocked
    && st.hold != some .firmware && st.hold != some .killed && st.hold != some .closed && st.traps.due.isNone
    && st.live.all (fun q => !q.effect) && !((teamOf s (i / 4)).getD {}).leave.closed && st.hold != some .start
    && ((teamOf s (i / 4)).getD {}).state != .loading

/-- Deliver the oldest pending cause (R212). A frame that cannot be written leaves everything as it was and blocks delivery. -/
def deliverAsync (s : State) (i : Nat) : State :=
  let st := getStrand s i
  match st.traps.pend with
  | [] => s
  | c :: _ =>
    if !asyncReady s i then s
    else
      let idle := st.run == .idle
      let (s1, first) := abandonWait s i
      let ents := first ++ st.traps.replay
      let rpc : Word := if idle then 0 else st.pc
      match deliver s1 i c true rpc rpc (if idle then [] else ents) with
      | some s2 => s2
      | none => updStrand s i (fun st => { st with traps := { st.traps with blocked := true } })

/-! ### Lifting -/

/-- The home of a lock word grants it to its first waiter when it is left 0 (R274), and the owners of the others change (R86). -/
def grantLock (s : State) (key : Nat) (i : Nat) (rest : List Nat) : State :=
  let s := writeWord s key (ownerWord s i)
  let s := { s with teth := { s.teth with locks := s.teth.locks.put key rest } }
  let obj := BitVec.ofNat 64 (key / 2 ^ 48 * 2 ^ 51 + key % 2 ^ 48)
  let s := endWait s i 1
  let s := acquire s i
  { s with teth := { s.teth with
      entries := s.teth.entries.map (fun e => if e.kind == 1 && e.obj == obj then { e with owner := some (gidOf s i), seen := false } else e)
      dirty := s.teth.dirty ++ i :: ownersOf s (s.teth.entries.filter (fun e => e.kind == 1 && e.obj == obj))
      walks := s.teth.walks ++ (rest.map (gidOf s)).filter (fun g => s.teth.entries.any (fun e => e.waiter == g && e.kind == 1 && e.obj == obj)) } }

/-- A waiting strand whose counter meets its target now is satisfied by the value it has (R272). -/
def noteCounter (s : State) (i : Nat) : State :=
  match (getStrand s i).wait with
  | some w =>
    match w.on, w.met with
    | .counter key target, none =>
      let v := readWord s key
      if decide (target.toNat ≤ v.toNat) then updStrand s i (fun st => { st with wait := some { w with met := some v } }) else s
    | _, _ => s
  | none => s

/-- Whether every dependence counter of a launch is at least its target, read at its home (R46, R66). -/
def depsNow (s : State) (t : Team) : Bool := t.deps.all (fun d => decide (d.2.toNat ≤ (readWord s d.1).toNat))

/-- A launch whose counters all meet their targets now leaves DEPWAIT, whatever they hold later (R66). -/
def noteDeps (s : State) : State :=
  if s.teams.vals.any (fun t => t.state == .depwait && !t.depsMet && depsNow s t) then
    { s with teams := s.teams.mapVals (fun _ t => if t.state == .depwait && depsNow s t then { t with depsMet := true } else t) }
  else s

/-- After writes: locks left 0 pass on (R274), counters that meet their target satisfy their waiters (R272), dependences are compared
(R66). -/
def settle (s : State) : State :=
  let s := s.teth.locks.cells.foldl (fun s c =>
    match c.2 with
    | i :: rest => if readWord s c.1 == 0 then grantLock s c.1 i rest else s
    | [] => s) s
  noteDeps (s.strands.cells.foldl (fun s c => noteCounter s c.1) s)

/-- What every step does around its effect: the writes are committed to memory in canonical form, and the trust record is
untouched (steps that change it use `runTrust`). -/
def runStep (f : State → State) (s : State) : Host.Outcome State Fault Refusal :=
  let s1 := f { s with wlog := [] }
  let s2 := if s1.wlog.isEmpty then s1 else settle s1
  .next { s2 with mem := memCommit s.mem s2.wlog, wlog := [], sec := s.sec }

/-- A step on the trust record and the module beside it (R51–R58). -/
def runTrust (g : State → Trust) (f : State → State) (s : State) : Host.Outcome State Fault Refusal :=
  let s0 : State := { s with wlog := [] }
  let t := g s0
  let s1 := f s0
  .next { s1 with mem := memCommit s.mem s1.wlog, wlog := [], sec := t }

end Sys2Proof.Machine
end

