-- ==== Sys2Proof/Machine/Operands.lean ====
section
/-! DEFINITION. Operand forms: sizes and the arithmetic of the Drover (R260, R261), effective addresses (R264), owner words,
rectangles in team tile coordinates (R127, R293), and the fields of head, branch and actor words (R114, R133, R134). -/

namespace Sys2Proof.Machine

/-- Width of a size code: 0 D, 1 W, 2 H, 3 B (R232). -/
def szBits (z : BitVec 2) : Nat := match z.toNat with | 0 => 64 | 1 => 32 | 2 => 16 | _ => 8
def szBytes (z : BitVec 2) : Nat := szBits z / 8

/-- Sign extension of the low bits named by a size. -/
def sx (z : BitVec 2) (v : Word) : Word :=
  match z.toNat with
  | 0 => v
  | 1 => (v.setWidth 32).signExtend 64
  | 2 => (v.setWidth 16).signExtend 64
  | _ => (v.setWidth 8).signExtend 64

/-- Zero extension of the low bits named by a size. -/
def zx (z : BitVec 2) (v : Word) : Word :=
  match z.toNat with
  | 0 => v
  | 1 => (v.setWidth 32).setWidth 64
  | 2 => (v.setWidth 16).setWidth 64
  | _ => (v.setWidth 8).setWidth 64

/-- sext_16 and zext_16 of an immediate (R261). -/
def immS (i : Half) : Word := i.signExtend 64
def immZ (i : Half) : Word := i.setWidth 64

/-- Shift count: g[b] mod w (R260). -/
def shiftBy (z : BitVec 2) (b : Word) : Nat := b.toNat % szBits z

def divS (z : BitVec 2) (a b : Word) : Word :=
  if sx z b = 0 then -1 else sx z (BitVec.ofInt 64 ((sx z a).toInt.tdiv (sx z b).toInt))
def remS (z : BitVec 2) (a b : Word) : Word :=
  if sx z b = 0 then sx z a else sx z (BitVec.ofInt 64 ((sx z a).toInt.tmod (sx z b).toInt))
def divU (z : BitVec 2) (a b : Word) : Word :=
  if zx z b = 0 then -1 else sx z (BitVec.ofNat 64 ((zx z a).toNat / (zx z b).toNat))
def remU (z : BitVec 2) (a b : Word) : Word :=
  if zx z b = 0 then sx z a else sx z (BitVec.ofNat 64 ((zx z a).toNat % (zx z b).toNat))

/-- Bits [127:64] of the signed product (R260). -/
def mulHigh (a b : Word) : Word := BitVec.ofInt 64 (a.toInt * b.toInt / (2 ^ 64 : Nat))

/-- Destination bytes of a copy acknowledged, in pattern order up to the first gap (R168). -/
def Copy.done (x : Copy) : Nat := (x.flying ++ x.refused).foldl min x.issued

/-- Effective address of F-MEM (R258). -/
def effAddr (s : State) (b : Reg) (o : Half) : Word := opA s b + immS o

/-- A branch or jump target (R232). -/
def relTarget (s : State) (w : Nat) {n : Nat} (o : BitVec n) : Word := s.cur.pc + (sext w o) * 4

/-- The new value of an atomic (R270): w is 64 or 32. -/
def aopNew (w : Nat) (o : Nat) (old b : Nat) : Nat :=
  let m : Nat := 2 ^ w
  let sg (x : Nat) : Int := if x ≥ 2 ^ (w - 1) then (x : Int) - m else x
  match o with
  | 0 => (old + b) % m
  | 1 => old &&& b
  | 2 => old ||| b
  | 3 => old ^^^ b
  | 4 => if sg old ≤ sg b then old else b
  | 5 => if sg old ≤ sg b then b else old
  | 6 => min old b
  | 7 => max old b
  | _ => b

/-! Rectangles (R127, R293). -/

structure Rect where
  x : Nat
  y : Nat
  w : Nat
  h : Nat
  deriving DecidableEq, Repr

def rectOf (v : Word) : Rect := ⟨bitsN v 0 16, bitsN v 16 16, bitsN v 32 16, bitsN v 48 16⟩

def Rect.empty (r : Rect) : Bool := r.w == 0 || r.h == 0

/-- Inside the team's tile coordinates. -/
def Rect.inTeam (r : Rect) (t : Team) : Bool := decide (r.x + r.w ≤ 16 * t.w) && decide (r.y + r.h ≤ 16 * t.h)

/-- Region and tile of a team tile coordinate (R110, R127). -/
def teamTile (t : Team) (x y : Nat) : Nat × Nat :=
  ((t.y + y / 16) * 16 + t.x + x / 16, y % 16 * 16 + x % 16)

/-- Team tile coordinates of a region's tile. -/
def tileCoord (t : Team) (r tile : Nat) : Nat × Nat :=
  ((r % 16 - t.x) * 16 + tile % 16, (r / 16 - t.y) * 16 + tile / 16)

/-- The tiles of a rectangle in row order; an empty one is every tile of the region (R293). -/
def rectTiles (t : Team) (region : Nat) (r : Rect) : List (Nat × Nat) :=
  if r.empty then (List.range 256).map (fun k => (region, k))
  else (List.range r.h).flatMap (fun j => (List.range r.w).map (fun i => teamTile t (r.x + i) (r.y + j)))

def Rect.has (r : Rect) (x y : Nat) : Bool :=
  decide (r.x ≤ x) && decide (x < r.x + r.w) && decide (r.y ≤ y) && decide (y < r.y + r.h)

/-! Fields of an actor header (R114). -/

namespace Hdr
def icnt (h : BitVec 128) (n : Nat) : Nat := bitsN h (96 + 4 * n) 4
def ocnt (h : BitVec 128) (n : Nat) : Nat := bitsN h (64 + 4 * n) 4
def iw (h : BitVec 128) : Nat := bitsN h 56 8
def join (h : BitVec 128) : Nat := bitsN h 54 2
def fillc (h : BitVec 128) : Nat := bitsN h 50 4
def ja (h : BitVec 128) : Nat := bitsN h 47 3
def jb (h : BitVec 128) : Nat := bitsN h 44 3
def bstart (h : BitVec 128) : Nat := bitsN h 38 6
def blen (h : BitVec 128) : Nat := bitsN h 33 5
def sec (h : BitVec 128) : Nat := bitsN h 29 4
def secx (h : BitVec 128) : Bool := bit h 28
def memn (h : BitVec 128) : Bool := bit h 27
def chain (h : BitVec 128) : Nat := bitsN h 25 2
end Hdr

/-! Fields of a channel head (R133) and a branch word (R134). -/

namespace Head
def chid (h : BitVec 128) : Nat := bitsN h 112 16
def pmod (h : BitVec 128) : Nat := bitsN h 99 13
def ptx (h : BitVec 128) : Nat := bitsN h 91 8
def pty (h : BitVec 128) : Nat := bitsN h 84 7
def pep (h : BitVec 128) : Nat := bitsN h 81 3
def pact (h : BitVec 128) : Nat := bitsN h 79 2
def pfmt (h : BitVec 128) : Nat := bitsN h 75 4
def prl (h : BitVec 128) : Nat := bitsN h 72 3 + 1
def nbr (h : BitVec 128) : Nat := bitsN h 70 2 + 1
def shmask (h : BitVec 128) : Nat := bitsN h 66 4
end Head

namespace Br
def ctx (b : BitVec 256) : Nat := bitsN b 248 8
def cty (b : BitVec 256) : Nat := bitsN b 241 7
def cep (b : BitVec 256) : Nat := bitsN b 238 3
def cfmt (b : BitVec 256) : Nat := bitsN b 234 4
def rnd (b : BitVec 256) : Nat := bitsN b 231 3
def shift (b : BitVec 256) : Int := (bits b 225 6).toInt
def depth (b : BitVec 256) : Nat := bitsN b 219 6 + 1
def pol (b : BitVec 256) : Nat := bitsN b 216 3
def k (b : BitVec 256) : Nat := bitsN b 212 4
def ph (b : BitVec 256) : Bool := bit b 211
def mop (b : BitVec 256) : Nat := bitsN b 209 2
def nfmt (b : BitVec 256) : Nat := bitsN b 205 4
def engm (b : BitVec 256) : Nat := bitsN b 198 7
def relm (b : BitVec 256) : Nat := bitsN b 191 7
def sec (b : BitVec 256) : Nat := bitsN b 188 3
def wake (b : BitVec 256) : Bool := bit b 187
def fire (b : BitVec 256) : Bool := bit b 186
def cen (b : BitVec 256) : Bool := bit b 185
def setpt (b : BitVec 256) : Nat := bitsN b 177 8
def kp (b : BitVec 256) : Nat := bitsN b 161 16
def ki (b : BitVec 256) : Nat := bitsN b 145 16
def squota (b : BitVec 256) : Nat := bitsN b 121 24
def sbase (b : BitVec 256) : Word := bits b 0 64
end Br

/-! Token sidebands (R230). -/

namespace Sb
def kind (v : BitVec 24) : Nat := bitsN v 22 2
def h (v : BitVec 24) : Bool := bit v 21
def t (v : BitVec 24) : Bool := bit v 20
def l (v : BitVec 24) : Bool := bit v 19
def g (v : BitVec 24) : Bool := bit v 18
def c (v : BitVec 24) : Bool := bit v 17
def n (v : BitVec 24) : Bool := bit v 16
def w (v : BitVec 24) : Nat := bitsN v 0 16
def mk (kind : Nat) (h t l g c n : Bool) (w : Nat) : BitVec 24 :=
  BitVec.ofNat 24 (kind % 4 * 2 ^ 22 + (if h then 2 ^ 21 else 0) + (if t then 2 ^ 20 else 0) + (if l then 2 ^ 19 else 0)
    + (if g then 2 ^ 18 else 0) + (if c then 2 ^ 17 else 0) + (if n then 2 ^ 16 else 0) + w % 65536)
def isMark (v : BitVec 24) : Bool := kind v == 2
/-- A sideband that breaks R230 whatever its position. -/
def bad (v : BitVec 24) (pay : Line) : Bool :=
  kind v == 3 ||
  (isMark v && (!h v || !t v || c v || n v || w v != 0 ||
    !(bitsN pay 0 4 == 1 || bitsN pay 0 4 == 2 || bitsN pay 0 4 == 3 || bitsN pay 0 4 == 4 || bitsN pay 0 4 == 6) ||
    (g v != (bitsN pay 0 4 == 1))))
end Sb

/-- A MARK token of a type with further payload bits (R231). -/
def markTok (ty : Nat) (extra : Nat) : Tok := ⟨BitVec.ofNat 512 (ty + extra), Sb.mk 2 true true false (ty == 1) false false 0⟩

def Tok.mtype (t : Tok) : Nat := bitsN t.pay 0 4

end Sys2Proof.Machine
end

