-- ==== Sys2Proof/Machine/Flags.lean ====
section
/-! DEFINITION. Status and special-register words. The Drover keeps no arithmetic flags (R260); what a program reads as status
is computed here: TSTATUS (R207), REGIONID (R267), GAITFLOOR (R95), GAIT (R96), QUOTA (R105), LRMAP (R269), Carter status (R168),
branch state (R135), MSTAT (R52), FLSTAT (R14), the port descriptor (R39), and MFS itself (R266). -/

namespace Sys2Proof.Machine

/-- log2 of a power of two up to 16. -/
def log2s (n : Nat) : Nat := if n ≥ 16 then 4 else if n ≥ 8 then 3 else if n ≥ 4 then 2 else if n ≥ 2 then 1 else 0

/-- REGIONID (R267). -/
def regionIdWord (s : State) (r : Nat) : Word :=
  match teamOf s r with
  | some t => BitVec.ofNat 64 (log2s t.h * 2 ^ 19 + log2s t.w * 2 ^ 16 + (r / 16 - t.y) * 2 ^ 12 + (r % 16 - t.x) * 2 ^ 8 + r)
  | none => BitVec.ofNat 64 r

/-- Whether a strand is boosted (R88). -/
def boosted (st : Strand) : Bool := decide (st.spr.prio.toNat < st.spr.eprio.toNat)

def regionBoost (s : State) (r : Nat) : Bool := (List.range 4).any (fun t => boosted (getStrand s (r * 4 + t)))

/-- EFF of GAITFLOOR (R93, R95). -/
def effFloor (s : State) (r : Nat) : Nat := if regionBoost s r then 2 else (getRegion s r).prog.toNat

/-- GAITFLOOR (R95). -/
def gaitFloorWord (s : State) (r : Nat) : Word :=
  BitVec.ofNat 64 ((if regionBoost s r then 16 else 0) + effFloor s r * 4 + (getRegion s r).prog.toNat)

/-- Tiles of a region that satisfy a test. -/
def countTiles (s : State) (r : Nat) (p : Tile → Bool) : Nat :=
  (s.tiles.cells.filter (fun c => c.1 / 256 == r && p c.2)).length

/-- Whether a tile is in a gait switch that has begun: it begins once the last firing has ended (R92). -/
def Tile.switching (t : Tile) (s : State) : Bool := t.gait.sw.isSome && decide (t.busy ≤ s.clock)

/-- GAIT (R96): the four counts sum to 256; a tile that State does not list is STABLED. -/
def gaitWord (s : State) (r : Nat) : Word :=
  let nsw := countTiles s r (fun t => t.switching s)
  let walk := countTiles s r (fun t => !t.switching s && t.gait.cur == 1)
  let gall := countTiles s r (fun t => !t.switching s && t.gait.cur == 2)
  BitVec.ofNat 64 (nsw * 2 ^ 48 + (256 - nsw - walk - gall) * 2 ^ 32 + walk * 2 ^ 16 + gall)

/-- QUOTA (R105). -/
def quotaWord (e : Energy) : Word :=
  BitVec.ofNat 64 ((if e.en then 2 ^ 63 else 0) + (if e.exh then 2 ^ 62 else 0) + (e.remain % (2 ^ 62 : Nat)).toNat)

/-- REMAIN as a 62-bit two's-complement number. -/
def remainOf (v : Word) : Int := (bits v 0 62).toInt

/-- LRMAP word q (R269). -/
def lrmapWord (s : State) (q : Nat) : Word :=
  BitVec.ofNat 64 ((List.range 32).foldl (fun acc j => acc + (getRegion s (32 * q + j)).lr.toNat * 4 ^ j) 0)

/-- Whether a special-register index is assigned (R266). -/
def specialAssigned (i : Nat) : Bool := decide (i ≤ 0x16) || (decide (0x20 ≤ i) && decide (i ≤ 0x23))

/-- Whether an MFS of the index is refused in user mode (R266, R269): LRMAP is SV; QUOTA may be read. -/
def specialReadSv (i : Nat) : Bool := decide (0x20 ≤ i)

/-- A special register of a strand (R266). -/
def readSpecial (s : State) (i : Nat) (x : Nat) : Word :=
  let st := getStrand s i
  let r := i / 4
  let t := teamOf s r
  match x with
  | 0x00 => BitVec.ofNat 64 (gidOf s i)
  | 0x01 => BitVec.ofNat 64 (match t with | some t => t.id | none => 0)
  | 0x02 => regionIdWord s r
  | 0x03 => (t.getD {}).slicebase
  | 0x04 => (t.getD {}).cartbase
  | 0x05 => st.spr.tvec
  | 0x06 => st.spr.tcause
  | 0x07 => st.spr.tval
  | 0x08 => st.spr.tpc
  | 0x09 => st.spr.tseq
  | 0x0A => st.spr.tframe
  | 0x0B => st.tstatus
  | 0x0C => st.spr.prio.setWidth 64
  | 0x0D => st.spr.eprio.setWidth 64
  | 0x0E => gaitWord s r
  | 0x0F => gaitFloorWord s r
  | 0x10 => quotaWord (t.getD {}).energy
  | 0x11 => BitVec.ofNat 64 (t.getD {}).energy.spent
  | 0x12 => BitVec.ofNat 64 (getRegion s r).cmds.seq
  | 0x13 => BitVec.ofNat 64 s.clock
  | 0x14 => BitVec.ofNat 64 (s.host.wallclock + s.clock)
  | 0x15 => st.spr.knotrec
  | 0x16 => st.spr.replayn.setWidth 64
  | 0x20 => lrmapWord s 0
  | 0x21 => lrmapWord s 1
  | 0x22 => lrmapWord s 2
  | 0x23 => lrmapWord s 3
  | _ => 0

/-- Status of a Carter channel (R168). -/
def carterStatus (c : Carter) : Word :=
  let q := c.queue.length
  match c.cur with
  | some k => BitVec.ofNat 64 (2 ^ 63 + (if k.park.isSome then 2 ^ 62 else 0) + (if k.susp then 2 ^ 61 else 0) + q * 2 ^ 56
      + bitsN k.start.word 0 16 * 2 ^ 40 + k.done % 2 ^ 40)
  | none => BitVec.ofNat 64 (q * 2 ^ 56)

/-- OCC: records buffered (R135, R136). -/
def Branch.occ (b : Branch) : Nat := (b.buf.filter (fun i => !i.mark)).length
/-- Records per full-cost token count: a narrowed record costs half (R138). -/
def Item.cost (i : Item) : Nat := if i.mark then 0 else if i.narrow.isSome then (i.toks.length + 1) / 2 else i.toks.length
def Branch.toks (b : Branch) : Nat := (b.buf.map Item.cost).sum

/-- Branch state as the 384 bits of R135. -/
def Branch.stateBits (b : Branch) : BitVec 384 :=
  let t := b.st
  let f (x : Bool) (i : Nat) : Nat := if x then 2 ^ i else 0
  BitVec.ofNat 384 (t.seq % 2 ^ 48 * 2 ^ 336 + t.cumw % 2 ^ 64 * 2 ^ 272 + t.gap.first % 2 ^ 48 * 2 ^ 224 + t.gap.cnt % 2 ^ 32 * 2 ^ 192
    + t.gap.wt % 2 ^ 64 * 2 ^ 128 + f t.eng 126 + f t.spact 125 + b.occ % 256 * 2 ^ 117 + b.toks % 1024 * 2 ^ 107
    + t.spocc % 2 ^ 24 * 2 ^ 83 + (t.integ % 4096).toNat * 2 ^ 71 + t.sph % 256 * 2 ^ 63
    + f t.lenmis 55 + f t.stabt 54 + f t.spq 53 + f t.ovf 52 + f t.nseen 51 + f t.cseen 50 + f t.loss 49
    + t.sphd % 2 ^ 24 * 2 ^ 24 + t.lost % 2 ^ 24)

/-- Lifecycle code (R52). -/
def Lcs.code : Lcs → Nat
  | .blank => 0 | .provisioned => 1 | .deployed => 2 | .debugOpen => 3 | .retired => 4

/-- MSTAT (R52). -/
def mstatWord (t : Trust) : Word :=
  BitVec.ofNat 64 (t.svn % 256 * 256 + t.lcs.code * 16 + (if t.dbg then 8 else 0) + (if t.att.isEmpty then 0 else 4)
    + (if t.recovery then 2 else 0) + (if t.ready then 1 else 0))

/-- FLSTAT (R14). -/
def flstatWord (l : Link) : Word :=
  BitVec.ofNat 64 (min l.crcerr 65535 * 2 ^ 48 + min l.replay 65535 * 2 ^ 32 + l.peer % 8192 * 2 ^ 19
    + (if l.en then l.st.toNat else 4) * 2 ^ 16 + l.lanes.toNat * 2 ^ 12 + (if l.en then 1 else 0))

/-! Fields of a port descriptor (R39). -/

namespace Pd
def rbase (d : BitVec 256) : Word := bits d 192 64
def caddr (d : BitVec 256) : Word := bits d 128 64
def arrived (d : BitVec 256) : Nat := bitsN d 80 48
def atag (d : BitVec 256) : Nat := bitsN d 68 12
def slots (d : BitVec 256) : Nat := 2 ^ (bitsN d 64 4 + 4)
def policy (d : BitVec 256) : Nat := bitsN d 61 3
def k (d : BitVec 256) : Nat := bitsN d 57 4
def ph (d : BitVec 256) : Bool := bit d 56
def rel (d : BitVec 256) : Nat := bitsN d 52 4
def pmax (d : BitVec 256) : Nat := bitsN d 49 3
def remote (d : BitVec 256) : Bool := bit d 48
def loc (d : BitVec 256) : Bool := bit d 47
def host (d : BitVec 256) : Bool := bit d 46
def mode (d : BitVec 256) : Nat := bitsN d 43 3
def cfgid (d : BitVec 256) : Nat := bitsN d 0 32
end Pd

/-- A fault-queue entry (R162). -/
def faultEntry (va : Word) (cause src kind tag reg tile unit : Nat) (mal : Bool) (lvl tseq id : Nat) : FEntry :=
  { w0 := va
    w1 := BitVec.ofNat 64 (cause * 2 ^ 56 + src * 2 ^ 53 + kind * 2 ^ 51 + tag * 2 ^ 39 + reg * 2 ^ 32 + tile * 2 ^ 24 + unit * 2 ^ 16
      + (if mal then 4 else 0) + lvl)
    w2 := BitVec.ofNat 64 tseq
    w3 := BitVec.ofNat 64 id }

end Sys2Proof.Machine
end

