-- ==== Sys2Proof/Machine/Issue.lean ====
section
/-! DEFINITION. Choosing who moves next and fetching what it runs: issue order (R68), fetch (R229, R265), re-injection (R210),
the parity check (R214). -/

namespace Sys2Proof.Machine

/-- Registers a word reads (R214, R232). -/
def srcRegs (w : Word32) : List Reg :=
  let op := bitsN w 26 6
  if decide (0x10 ≤ op) && decide (op ≤ 0x15) then [fieldD w, fieldA w]
  else if decide (0x28 ≤ op) && decide (op ≤ 0x2B) then [fieldD w, fieldA w]
  else if op == 0x31 then [fieldD w, fieldA w, fieldB w]
  else if decide (op ≤ 0x01) || decide (0x30 ≤ op) then [fieldA w, fieldB w]
  else if op == 0x0B || op == 0x0F || op == 0x16 || op == 0x17 || op == 0x19 then []
  else [fieldA w]

/-- The register a word writes, g0 for none (R232, R258). -/
def dstReg (w : Word32) : Reg :=
  let op := bitsN w 26 6
  if op == 0x17 then 31
  else if (decide (0x10 ≤ op) && decide (op ≤ 0x16)) || op == 0x1A || (decide (0x28 ≤ op) && decide (op ≤ 0x2B)) then 0
  else fieldD w

/-- What must be over before an instruction issues behind requests in flight: 0 and 1 nothing (registers and branches, loads); 2 the
loads before it have bound (R175); 3 every request and store sent has its response (R176–R178). -/
def gateOf (w : Word32) : Nat :=
  let op := bitsN w 26 6
  if op ≤ 0x18 then 0
  else if decide (0x20 ≤ op) && decide (op ≤ 0x27) then 1
  else if decide (0x28 ≤ op) && decide (op ≤ 0x2B) then 2
  else if op == 0x30 || op == 0x31 then (if bitsN w 4 2 == 0 then 2 else 3)
  else if op == 0x34 && (bitsN w 0 8 == 4 || bitsN w 0 8 == 5) then 2
  else 3

/-- The word a strand issues next, and whether its operands are captured: the head of its replay queue, else the word at its pc. -/
def nextWord (s : State) (i : Nat) : Option (Word32 × Bool) :=
  match (getStrand s i).traps.replay with
  | e :: _ => if e.st == 1 || e.st == 3 then some (e.insn, true) else none
  | [] =>
    match translate s (strandSpace s i) (getStrand s i).pc .fetch with
    | .ok key _ => some (BitVec.ofNat 32 (ofBytes (fetchBytes (seen s (i / 4) (some i) (key / 8 * 8) 8) i key 4).1), false)
    | _ => none

/-- Whether a word reads or writes a register that one of the given words will write (R259). -/
def awaits (w : Word32) (captured : Bool) (older : List Word32) : Bool :=
  let srcs := if captured then (if bitsN w 26 6 == 0x31 then [fieldD w] else []) else srcRegs w
  (dstReg w :: srcs).any (fun g => g != 0 && older.any (fun o => dstReg o == g))

/-- Whether the requests of a strand let its next instruction issue (R175–R178, R259). -/
def gateOpen (s : State) (i : Nat) : Bool :=
  let st := getStrand s i
  if st.settled then true
  else if st.spr.ss || st.live.any (·.sync) || st.traps.stepDue || st.traps.stopDue then false
  else match nextWord s i with
    | none => true
    | some (w, cap) =>
      !awaits w cap (st.live.map (·.entry.insn)) &&
      (match gateOf w with
        | 0 | 1 => decide (st.live.length < 8)
        | 2 => st.live.all (·.effect) && decide (st.live.length < 8)
        | _ => false)

/-- Whether what kept a strand from being READY is over. -/
def holdClear (s : State) (i : Nat) : Option Hold → Bool
  | none => true
  | some (.walk tag page) => !s.trans.walks.contains { die := regionDie (i / 4), tag := tag.toNat, page := page }
  | some (.carter c) => decide (((getRegion s (i / 4)).carters.getD c.toNat {}).queue.length < 16)
  | some (.rsend tree) =>
    match (s.trees.getD tree.toNat {}).nodes.find? (fun n => n.reg.toNat == i / 4) with
    | some n => decide ((getStrand s i).epochs.getD tree.toNat 0 < n.epoch + 2)
    | none => true
  | some (.rrecv tree) => !(s.trees.getD tree.toNat {}).results.isEmpty
  | some .taskend => (List.range 4).all (fun t => t == 0 || !(getStrand s (i / 4 * 4 + t)).inTask || (getStrand s (i / 4 * 4 + t)).run == .idle)
  | some .sent => (getStrand s i).settled
  | some .start =>
    match teamOf s (i / 4) with
    | some t => t.state == .running && decide ((getRegion s (i / 4)).startClock < s.clock)
    | none => true
  | some .firmware | some .killed | some .closed | some .response => false

/-- Whether a strand is READY and its next instruction may issue: not in a team whose issue CLOSE has stopped (R216). -/
def canIssue (s : State) (i : Nat) : Bool :=
  let st := getStrand s i
  st.run == .ready && holdClear s i st.hold && gateOpen s i && !((teamOf s (i / 4)).getD {}).leave.closed

/-- Strands of a region that may issue, in turn after the one that issued last (R68); `also` may issue behind unfinished instructions. -/
def turnOrder (s : State) (r : Nat) (also : Option Nat := none) : List Nat :=
  let turn := (getRegion s r).turn.toNat
  ((List.range 4).map (fun k => (turn + 1 + k) % 4)).filter (fun t => also == some t || canIssue s (r * 4 + t))

/-- The strand a region issues next: round-robin after the one that issued last; YIELD passes one turn on (R68, R291). -/
def nextStrand (s : State) (r : Nat) (also : Option Nat := none) : Option Nat :=
  let ok := turnOrder s r also
  match ok.find? (fun t => !(getStrand s (r * 4 + t)).yielded) with
  | some t => some t
  | none => ok.head?

/-- Whether a region's Drover may issue for a strand now: it has not issued on this clock, and the turn is the strand's (R68). -/
def mayIssue (s : State) (r t : Nat) (also : Option Nat := none) : Bool :=
  (getRegion s r).issued != some s.clock && nextStrand s r also == some t

/-- What a turn comes to: an instruction that runs on a prepared state, or a finished step. -/
inductive Prep where
  | run (i : Instr) (s : State)
  | done (o : Host.Outcome State Fault Refusal)

/-- Registers with bad parity are rewritten from the operand log, or MACHINE_CHECK is raised (R214). None: the instruction runs. -/
def parityCheck (s : State) (i : Nat) (w : Word32) : Bool × State :=
  let st := getStrand s i
  if st.badpar.isEmpty then (true, s)
  else (if s.cur.cap.isSome then (if bitsN w 26 6 == 0x31 then [fieldD w] else []) else srcRegs w).foldl (fun acc r =>
    if !acc.1 then acc
    else match (getStrand acc.2 i).badpar.find? (fun x => x.1 == r) with
      | none => acc
      | some x =>
        match (getStrand acc.2 i).oplog.find? (fun l => l.1 == r) with
        | some l =>
          let s := updStrand acc.2 i (fun st => { st.setReg r l.2 with
            oplog := st.oplog
            spr := { st.spr with replayn := if st.spr.replayn == 0xFFFFFFFF then st.spr.replayn else st.spr.replayn + 1 } })
          if x.2 then (false, machineCheck s i 0) else (true, s)
        | none => (false, machineCheck acc.2 i 0)) (true, s)

/-- The word of the instruction in progress decodes, or raises the first failing check (R232). -/
def decoded (s : State) (w : Word32) : Prep :=
  let p := parityCheck s (me s) w
  if !p.1 then .done (runStep (fun s => (parityCheck s (me s) w).2) s)
  else match decode w with
    | .ok i => .run i p.2
    | .error .illegalOp => .done (runStep trapIllegal s)
    | .error _ => .done (runStep trapReserved s)

/-- One token for each instruction issued (R104), once: a TASKEND that was held has been charged. -/
def chargeIssue (s : State) : State :=
  if (self s).traps.paid then updSelf s (fun st => { st with traps := { st.traps with paid := false } })
  else match (self s).hold with
  | some .taskend | some .sent => s
  | _ => chargeTeam s (myTeam s).id 1

/-- Drop a replay entry of the strand in progress; after the last one the strand goes on or goes IDLE (R210). -/
def popReplay (s : State) : State := updSelf s (fun st => { st with traps := { st.traps with replay := st.traps.replay.tail } })

/-- The strand's fetch finds performed what has been released to it: the stores are committed before the instruction runs (R172, R173). -/
def fetchSeen (s : State) (key : Nat) : State :=
  if s.part.isEmpty then s
  else
    let x := seen { s with wlog := [] } (me s / 4) (some (me s)) (key / 8 * 8) 8
    if x.wlog.isEmpty then { x with wlog := s.wlog } else { settle x with mem := memCommit s.mem (settle x).wlog, wlog := [] }

/-- Fetch at the pc (R229, R265). -/
def fetchWord (s : State) : Prep :=
  let st := self s
  let pc := st.pc
  let s := { s with cur := { s.cur with pc := pc, insn := 0, cap := none } }
  if pc.toNat % 4 != 0 then .done (runStep (fun s => raiseSync s 0x03 pc false false) s)
  else match translate s (strandSpace s (me s)) pc .fetch with
    | .ok key pte =>
      let hit := (watchHit s (strandSpace s (me s)).tag key pte 4 .fetch).map (fun j => pc + BitVec.ofNat 64 j)
      let s := fetchSeen (account (touchTlb s (strandSpace s (me s)) pc.toNat) key pte 4) key
      let s := { s with cur := { s.cur with watch := hit } }
      if poisoned s key 4 then .done (runStep (fun s => machineCheck s (me s) pc) s)
      else
        let x := fetchBytes s (me s) key 4
        let w : Word32 := BitVec.ofNat 32 (ofBytes x.1)
        let s := chargeIssue x.2
        decoded { s with cur := { s.cur with insn := w } } w
    | .miss page => .done (runStep (fun s =>
        if (self s).walkBad == some page then raiseSync (updSelf s (fun st => { st with walkBad := none })) 0x04 pc true false
        else
        let w : Walk := { die := regionDie s.cur.reg.toNat, tag := (strandSpace s (me s)).tag, page := page }
        holdAtPc (startWalk s w) (.walk (BitVec.ofNat 12 w.tag) page)) s)
    | .cart _ => .done (runStep (fun s => raiseSync s 0x05 pc false false) s)
    | .bad code walked _ _ => .done (runStep (fun s => raiseSync s code pc walked false) s)

/-- Re-inject the head of the replay queue (R210). -/
def injectEntry (s : State) (e : Entry) : Prep :=
  let s := popReplay s
  let s := { s with cur := { s.cur with pc := e.pc, insn := e.insn, cap := some (e.opa, e.opb) } }
  match e.st.toNat with
  | 1 | 3 => decoded (if e.paid then s else chargeTeam s (myTeam s).id 1) e.insn
  | 2 => .done (runStep (fun s => movePc (setG s (fieldD e.insn) e.opa)) s)
  | 4 => .done (runStep movePc s)
  | _ => .done (runStep (fun s =>
      let s := updSelf s (fun st => { st with traps := { st.traps with replay := [] } })
      let rtePc := (self s).traps.rtePc
      raiseSync { s with cur := { s.cur with pc := rtePc, insn := 0xDC000001 } } 0x02 0xDC000001 false false) s)

/-- The state in which a strand issues: it is the one in progress and has had its turn; the turns of the strands before it that had
yielded are passed (R68). -/
def turnState (s : State) (r : RegionId) (t : StrandNo) (also : Option Nat := none) : State :=
  let passed := (turnOrder s r.toNat also).takeWhile (· != t.toNat)
  let s := { s with cur := { reg := r, str := t } }
  let s := updRegion s r.toNat (fun g => { g with turn := t, issued := some s.clock })
  { s with strands := s.strands.mapVals (fun k st =>
      if k / 4 == r.toNat && (k % 4 == t.toNat || passed.contains (k % 4)) then { st with yielded := false } else st) }

/-- Before the first instruction of a handler: the STEP that is due, which names a watch hit of the frame's write, or the WATCH of that hit
(R164, R221). -/
def raiseDue (s : State) (i : Nat) : State :=
  let st := getStrand s i
  let s := updStrand s i (fun st => { st with traps := { st.traps with watchDue := none } })
  let tval : Word := match st.traps.watchDue with | some va => BitVec.ofNat 64 (2 ^ 63 + bitsN va 0 57) | none => 0
  if st.traps.stepDue then toDebugger s i { code := 0x08, tval := tval } st.pc st.pc st.traps.replay
  else raiseAfter s i { code := 0x06, tval := st.traps.watchDue.getD 0 } st.spr.dba

/-- The Drover of a region issues for a strand. -/
def issueFor (s : State) (r : RegionId) (t : StrandNo) : Prep :=
  let i := sid r t
  if !mayIssue s r.toNat t.toNat then .done (.next { s with cur := { reg := r, str := t } })
  else
    let s := turnState s r t
    let st := getStrand s i
    if st.traps.stopDue then .done (runStep (fun s =>
      toDebugger (updStrand s i (fun st => { st with traps := { st.traps with stopDue := false } })) i {} st.pc st.pc st.traps.replay) s)
    else if st.traps.stepDue || st.traps.watchDue.isSome then .done (runStep (fun s => raiseDue s i) s)
    else if t == 0 && (myTeam s).energy.at0.contains r.toNat then .done (runStep (fun s =>
      let s := updTeam s (myTeam s).id (fun t => { t with energy := { t.energy with at0 := t.energy.at0.filter (· != r.toNat) } })
      let s := { s with cur := { s.cur with pc := (getStrand s i).pc } }
      raiseSync s 0x0D (BitVec.ofInt 64 (myTeam s).energy.remain) false false) s)
    else match st.traps.replay with
      | e :: _ => injectEntry s e
      | [] => fetchWord s

/-- The strand issues its next instruction behind unfinished ones (R209, R259): one of registers alone runs; a load, a store or an atomic
without ACQ and REL joins the replay queue with its operands captured. At most eight are unfinished (R208). -/
def issueAhead (s : State) (r : RegionId) (t : StrandNo) : Prep :=
  let i := sid r t
  let st := getStrand s i
  let none' : Prep := .done (.next { s with cur := { reg := r, str := t } })
  let words := st.live.map (·.entry.insn) ++ st.traps.replay.map (·.insn)
  if !mayIssue s r.toNat t.toNat (some t.toNat) || (t == 0 && ((teamOf s r.toNat).getD {}).energy.at0.contains r.toNat) || st.run != .ready || st.hold.isSome || st.spr.ss || st.traps.stepDue || st.traps.watchDue.isSome || st.traps.stopDue || st.traps.idleAfter
      || st.traps.due.isSome || !st.badpar.isEmpty || ((teamOf s r.toNat).getD {}).leave.closed || decide (8 ≤ words.length)
      || st.live.any (·.sync) || st.traps.replay.any (fun e => e.st != 1 || gateOf e.insn == 0 || gateOf e.insn == 3) then none'
  else match translate s (strandSpace s i) st.pc .fetch with
    | .ok key pte =>
      let x := fetchBytes (fetchSeen { s with cur := { reg := r, str := t } } key) i key 4
      let w : Word32 := BitVec.ofNat 32 (ofBytes x.1)
      if st.pc.toNat % 4 != 0 || poisoned s key 4 || (watchHit s (strandSpace s i).tag key pte 4 .fetch).isSome || awaits w false words then none'
      else match decode w with
        | .error _ => none'
        | .ok ins =>
          let s := turnState (account (touchTlb x.2 (strandSpace x.2 i) st.pc.toNat) key pte 4) r t (some t.toNat)
          let s := { s with cur := { s.cur with pc := st.pc, insn := w } }
          if bitsN w 26 6 ≤ 0x0F then .run ins (chargeTeam s (myTeam s).id 1)
          else if gateOf w == 1 || (gateOf w == 2 && bitsN w 26 6 != 0x34) then .done (runStep (fun s =>
            let y := captured s
            let s := chargeTeam s (myTeam s).id 1
            updSelf s (fun st => { st with pc := s.cur.pc + 4
                                           traps := { st.traps with replay := st.traps.replay ++ [{ curEntry s 1 y.1 y.2 with paid := true }] } })) s)
          else none'
    | _ => none'

/-- Take the first answered request out. -/
def takeReq : List Req → Option (Req × List Req)
  | [] => none
  | q :: qs =>
    if q.answered && !q.gone && !q.over then some (q, qs)
    else (takeReq qs).map (fun x => (x.1, q :: x.2))

/-- An acknowledged request finishes at its home (R157): its instruction runs there with its captured operands; while a trap waits for it,
its result goes into its COMPLETE entry (R209). -/
def landReq (s : State) (r : RegionId) (t : StrandNo) : Prep :=
  let i := sid r t
  let st := getStrand s i
  match takeReq st.sent with
  | none => .done (.next s)
  | some (q, rest) =>
    let s := if st.traps.due.isSome then s else setStrand s i { st with sent := rest }
    let s := { s with cur := { reg := r, str := t, pc := q.entry.pc, insn := q.entry.insn, cap := some (q.entry.opa, q.entry.opb), home := some q.key, denied := q.denied } }
    match decode q.entry.insn with
    | .ok ins => .run ins s
    | .error _ => .done (.next s)

/-- Whether the frame of a waiting trap may be written: every request with an effect has its response (R209). -/
def dueReady (st : Strand) : Bool := st.traps.due.isSome && st.run == .ready && st.live.all (fun q => q.over || !q.effect)

/-- A CFG, CFGTOK or TMPL: it executes over clocks, from a `load` turn to the `command` turn that completes it (R227). -/
def isLoad (w : BitVec 128) : Bool := bitsN w 120 8 == 0x04 || bitsN w 120 8 == 0x05 || bitsN w 120 8 == 0x0E

/-- Whether a command's execution counts as LOAD in the phase records (R227). -/
def countsLoad (w : BitVec 128) : Bool := isLoad w || bitsN w 120 8 == 0x0D

/-- Whether a queue's head may begin (R124): it has not begun, or is a load that has only begun; a BARRIER waits for every queue, and
nothing begins in a closed team (R216). Queue 33 stands for the commands that join none (R314). -/
def headReady (s : State) (r q : Nat) : Option QCmd :=
  let cs := (getRegion s r).cmds
  if q == 33 then cs.atOnce.find? (fun c => !c.begun)
  else match cs.queues.getD q [] with
  | h :: _ =>
    if h.begun then (if h.loading && isLoad h.word then some h else none)
    else if ((teamOf s r).getD {}).leave.closed then none
    else if bitsN h.word 120 8 == 0x08 then
      (if (List.range 33).all (fun k => match cs.queues.getD k [] with | x :: _ => x.num == h.num | [] => true) then some h else none)
    else some h
  | [] => none

def markBegun (s : State) (r num : Nat) : State :=
  let mark (l : List QCmd) : List QCmd := l.map (fun c => if c.num == num then { c with begun := true, loading := countsLoad c.word } else c)
  updRegion s r (fun g => { g with cmds := { g.cmds with queues := g.cmds.queues.mapVals (fun _ l => mark l), atOnce := mark g.cmds.atOnce } })

/-- The load at a queue's head begins and executes from now on (R227). -/
def beginLoad (s : State) (r q : Nat) : State :=
  match headReady s r q with
  | some h => if q == 33 || h.begun || !isLoad h.word then s else markBegun s r h.num
  | none => s

/-- The head of a queue begins (R124, R294). -/
def beginCommand (s : State) (r : RegionId) (q : Nat) : Prep :=
  match headReady s r.toNat q with
  | some h =>
    let s := { s with cur := { reg := r, str := h.strand, num := h.num, queue := q } }
    match decodeCmd h.word with
    | .ok i => .run i (markBegun s r.toNat h.num)
    | .error _ => .done (.next (retireNumber s r.toNat h.num))
  | none => .done (.next s)

/-- The firmware returns to a strand it holds (R162, R291): the replay entries issue again; a SYSCALL's result is a COMPLETE entry. -/
def firmwareReturn (s : State) (r : RegionId) (t : StrandNo) (result : Option Word) : State :=
  let i := sid r t
  let st := getStrand s i
  match st.hold, st.traps.fw with
  | some .firmware, some c =>
    let ents := match result, c.1.code == 0x09 with
      | some v, true => ({ pc := c.2, insn := (c.1.tval).setWidth 32, st := 2, opa := v } : Entry) :: st.traps.replay
      | _, _ => st.traps.replay
    setStrand s i { st with hold := none, traps := { st.traps with fw := none, replay := ents } }
  | _, _ => s

end Sys2Proof.Machine
end

