-- ==== Sys2Proof/Machine/Arith.lean ====
section
/-! DEFINITION. Register arithmetic, immediates, branches and jumps (R260–R263). None of them traps; no flags are kept. -/

namespace Sys2Proof.Machine

abbrev Out' := Host.Outcome State Fault Refusal

/-- Write the destination and move on. -/
def result (s : State) (d : Reg) (v : Word) : State := advance (setG s d v)

/-- Take or fall through a branch (R262). -/
def branchIf (s : State) (taken : Bool) (o : Half) : State := if taken then jumpTo s (relTarget s 16 o) else advance s

/-- ADD (R260). -/
def execAdd (d a b : Reg) (z : BitVec 2) (s : State) : Out' :=
  runStep (fun s => result s d (sx z (opA s a + opB s b))) s

/-- SUB (R260). -/
def execSub (d a b : Reg) (z : BitVec 2) (s : State) : Out' :=
  runStep (fun s => result s d (sx z (opA s a - opB s b))) s

/-- AND (R260). -/
def execAnd (d a b : Reg) (s : State) : Out' :=
  runStep (fun s => result s d (opA s a &&& opB s b)) s

/-- OR (R260). -/
def execOr (d a b : Reg) (s : State) : Out' :=
  runStep (fun s => result s d (opA s a ||| opB s b)) s

/-- XOR (R260). -/
def execXor (d a b : Reg) (s : State) : Out' :=
  runStep (fun s => result s d (opA s a ^^^ opB s b)) s

/-- SLL (R260). -/
def execSll (d a b : Reg) (z : BitVec 2) (s : State) : Out' :=
  runStep (fun s => result s d (sx z (opA s a <<< shiftBy z (opB s b)))) s

/-- SRL, logical (R260). -/
def execSrl (d a b : Reg) (z : BitVec 2) (s : State) : Out' :=
  runStep (fun s => result s d (sx z (zx z (opA s a) >>> shiftBy z (opB s b)))) s

/-- SRA, arithmetic (R260). -/
def execSra (d a b : Reg) (z : BitVec 2) (s : State) : Out' :=
  runStep (fun s => result s d (sx z ((sx z (opA s a)).sshiftRight (shiftBy z (opB s b))))) s

/-- SLT, signed (R260). -/
def execSlt (d a b : Reg) (s : State) : Out' :=
  runStep (fun s => result s d (ofBool ((opA s a).slt (opB s b)))) s

/-- SLTW, whole (R260). -/
def execSltw (d a b : Reg) (s : State) : Out' :=
  runStep (fun s => result s d (ofBool ((opA s a).ult (opB s b)))) s

/-- MIN, signed (R260). -/
def execMin (d a b : Reg) (s : State) : Out' :=
  runStep (fun s => result s d (if (opA s a).slt (opB s b) then opA s a else opB s b)) s

/-- MAX, signed (R260). -/
def execMax (d a b : Reg) (s : State) : Out' :=
  runStep (fun s => result s d (if (opA s a).slt (opB s b) then opB s b else opA s a)) s

/-- MUL (R260). -/
def execMul (d a b : Reg) (z : BitVec 2) (s : State) : Out' :=
  runStep (fun s => result s d (sx z (opA s a * opB s b))) s

/-- MULH (R260). -/
def execMulh (d a b : Reg) (s : State) : Out' :=
  runStep (fun s => result s d (mulHigh (opA s a) (opB s b))) s

/-- DIV (R260). -/
def execDiv (d a b : Reg) (z : BitVec 2) (s : State) : Out' :=
  runStep (fun s => result s d (divS z (opA s a) (opB s b))) s

/-- DIVW (R260). -/
def execDivw (d a b : Reg) (z : BitVec 2) (s : State) : Out' :=
  runStep (fun s => result s d (divU z (opA s a) (opB s b))) s

/-- REM (R260). -/
def execRem (d a b : Reg) (z : BitVec 2) (s : State) : Out' :=
  runStep (fun s => result s d (remS z (opA s a) (opB s b))) s

/-- REMW (R260). -/
def execRemw (d a b : Reg) (z : BitVec 2) (s : State) : Out' :=
  runStep (fun s => result s d (remU z (opA s a) (opB s b))) s

/-- ADDI (R261). -/
def execAddi (d a : Reg) (i : Half) (s : State) : Out' :=
  runStep (fun s => result s d (opA s a + immS i)) s

/-- ANDI (R261). -/
def execAndi (d a : Reg) (i : Half) (s : State) : Out' :=
  runStep (fun s => result s d (opA s a &&& immZ i)) s

/-- ORI (R261). -/
def execOri (d a : Reg) (i : Half) (s : State) : Out' :=
  runStep (fun s => result s d (opA s a ||| immZ i)) s

/-- XORI (R261). -/
def execXori (d a : Reg) (i : Half) (s : State) : Out' :=
  runStep (fun s => result s d (opA s a ^^^ immZ i)) s

/-- SLTI (R261). -/
def execSlti (d a : Reg) (i : Half) (s : State) : Out' :=
  runStep (fun s => result s d (ofBool ((opA s a).slt (immS i)))) s

/-- SLTIW (R261). -/
def execSltiw (d a : Reg) (i : Half) (s : State) : Out' :=
  runStep (fun s => result s d (ofBool ((opA s a).ult (immS i)))) s

/-- SLLI (R261). -/
def execSlli (d a : Reg) (i : BitVec 6) (s : State) : Out' :=
  runStep (fun s => result s d (opA s a <<< i.toNat)) s

/-- SRLI (R261). -/
def execSrli (d a : Reg) (i : BitVec 6) (s : State) : Out' :=
  runStep (fun s => result s d (opA s a >>> i.toNat)) s

/-- SRAI (R261). -/
def execSrai (d a : Reg) (i : BitVec 6) (s : State) : Out' :=
  runStep (fun s => result s d ((opA s a).sshiftRight i.toNat)) s

/-- LUI (R261). -/
def execLui (d : Reg) (i : Half) (s : State) : Out' :=
  runStep (fun s => result s d (((immZ i <<< 16).setWidth 32).signExtend 64)) s

/-- ORI16 (R261). -/
def execOri16 (d a : Reg) (i : Half) (s : State) : Out' :=
  runStep (fun s => result s d (opA s a ||| (immZ i <<< 16))) s

/-- ORI32 (R261). -/
def execOri32 (d a : Reg) (i : Half) (s : State) : Out' :=
  runStep (fun s => result s d (opA s a ||| (immZ i <<< 32))) s

/-- ORI48 (R261). -/
def execOri48 (d a : Reg) (i : Half) (s : State) : Out' :=
  runStep (fun s => result s d (opA s a ||| (immZ i <<< 48))) s

/-- PCADD (R261). -/
def execPcadd (d : Reg) (i : Half) (s : State) : Out' :=
  runStep (fun s => result s d (s.cur.pc + immS i * 4)) s

/-- BEQ (R262). -/
def execBeq (a b : Reg) (o : Half) (s : State) : Out' :=
  runStep (fun s => branchIf s (opA s a == opB s b) o) s

/-- BNE (R262). -/
def execBne (a b : Reg) (o : Half) (s : State) : Out' :=
  runStep (fun s => branchIf s (opA s a != opB s b) o) s

/-- BLT (R262). -/
def execBlt (a b : Reg) (o : Half) (s : State) : Out' :=
  runStep (fun s => branchIf s ((opA s a).slt (opB s b)) o) s

/-- BGE (R262). -/
def execBge (a b : Reg) (o : Half) (s : State) : Out' :=
  runStep (fun s => branchIf s (!(opA s a).slt (opB s b)) o) s

/-- BLTW (R262). -/
def execBltw (a b : Reg) (o : Half) (s : State) : Out' :=
  runStep (fun s => branchIf s ((opA s a).ult (opB s b)) o) s

/-- BGEW (R262). -/
def execBgew (a b : Reg) (o : Half) (s : State) : Out' :=
  runStep (fun s => branchIf s (!(opA s a).ult (opB s b)) o) s

/-- J (R262). -/
def execJ (o : BitVec 26) (s : State) : Out' := runStep (fun s => jumpTo s (relTarget s 26 o)) s

/-- JAL: g31 holds the address after the jump (R262). -/
def execJal (o : BitVec 26) (s : State) : Out' := runStep (fun s => jumpTo (setG s 31 (s.cur.pc + 4)) (relTarget s 26 o)) s

/-- JALR: the target is computed before the destination is written (R263). -/
def execJalr (d a : Reg) (i : Half) (s : State) : Out' :=
  runStep (fun s => jumpTo (setG s d (s.cur.pc + 4)) (opA s a + immS i)) s

end Sys2Proof.Machine
end

