-- ==== Sys2Proof/Machine/Gait.lean ====
section
/-! DEFINITION. Gaits of tiles (R90–R99, R288): requests, targets, switches, wake slots. -/

namespace Sys2Proof.Machine

/-- The first walk-clock edge at or after a clock (R90). -/
def walkEdge (n : Nat) : Nat := (n + 3) / 4 * 4

/-- Latency of a switch (R92); a switch into WALK ends on a walk edge. -/
def switchEnd (now : Nat) (src dst : BitVec 2) : Nat :=
  match src.toNat, dst.toNat with
  | 1, 2 => now + 600
  | 2, 1 => walkEdge (now + 200)
  | 1, 0 => now + 100
  | 2, 0 => now + 300
  | 0, 1 => walkEdge (now + 4000)
  | 0, 2 => now + 4600
  | _, _ => now

/-- The target gait of a tile (R93). -/
def targetGait (s : State) (r : Nat) (t : Tile) : BitVec 2 :=
  if t.gait.req == 0 then 0 else if decide (t.gait.req.toNat < effFloor s r) then BitVec.ofNat 2 (effFloor s r) else t.gait.req

/-- Whether the tile is a member of a pending barrier (R97). -/
def Tile.held (t : Tile) : Bool := t.ctxs.vals.any (fun c => c.hold.isSome)

/-- Bring a tile towards its target (R92, R93, R97): not while a firing is in progress or it switches gait or context; a lower gait
waits for a pending barrier; leaving STABLED waits for a wake slot. A switch begins once the last firing has ended: until then it has
not begun, and the target may still change. -/
def retargetTile (s : State) (r : Nat) (t : Tile) : Tile :=
  let g := t.gait
  let target := targetGait s r t
  if t.fir.isSome || t.switching s || t.csw.isSome then t
  else if target == g.cur then { t with gait := { g with wake := false, sw := none } }
  else if t.held && decide (target.toNat < g.cur.toNat) then t
  else if g.cur == 0 then { t with gait := { g with wake := true } }
  else { t with gait := { g with sw := some (target, switchEnd (max s.clock t.busy) g.cur target) } }

def retarget (s : State) (r tile : Nat) : State := updTile s r tile (retargetTile s r)

/-- A change of a region's floor re-evaluates every tile (R93). -/
def retargetRegion (s : State) (r : Nat) : State :=
  { s with tiles := s.tiles.mapVals (fun k t => if k / 256 == r then retargetTile s r t else t) }

/-- Record a requested gait (R93). -/
def requestGait (s : State) (r tile : Nat) (g : BitVec 2) : State :=
  retarget (updTile s r tile (fun t => { t with gait := { t.gait with req := g } })) r tile

/-- A GAIT word of an actor, at the end of its firing (R340): of the requests of one clock the actor's stands (R341). -/
def actorGait (s : State) (r tile : Nat) (g : BitVec 2) : State :=
  requestGait (updTile s r tile (fun t => { t with gait := { t.gait with asked := some s.clock } })) r tile g

/-- A request by GAIT of a Drover (R288): on one clock it comes before an actor's (R341). -/
def droverGait (s : State) (r tile : Nat) (g : BitVec 2) : State :=
  if (getTile s r tile).gait.asked == some s.clock then s else requestGait s r tile g

/-- GAIT (R288): every tile of the rectangle; 1 outside the team, 0 for an empty rectangle. -/
def execGait (d a b : Reg) (s : State) : Out' :=
  runStep (fun s =>
    let m := opB s b
    let r := rectOf (opA s a)
    let t := myTeam s
    if bitsN m 2 62 != 0 || bitsN m 0 2 == 3 then trapReservedOperand s
    else if r.empty then result s d 0
    else if !r.inTeam t then result s d 1
    else result ((rectTiles t s.cur.reg.toNat r).foldl (fun s x => droverGait s x.1 x.2 (bits m 0 2)) s) d 0) s

/-- Whether every tile of a team is in its target gait, with no switch in progress (R67, R219). -/
def gaitsSettled (s : State) (t : Team) : Bool :=
  s.tiles.cells.all (fun c => !t.regions.contains (c.1 / 256) ||
    (c.2.gait.sw.isNone && !c.2.gait.wake && (c.2.held || c.2.gait.cur == targetGait s (c.1 / 256) c.2)))

/-- A pending context switch begins once the tile neither fires nor switches gait (R113): it takes 8 clocks. -/
def startCtxSwitch (s : State) (t : Tile) : Tile :=
  match t.cswDue with
  | some (target, num) =>
    if t.fir.isSome || t.gait.sw.isSome || t.csw.isSome then t
    else { t with csw := some (target, max s.clock t.busy + 8, num), cswDue := none }
  | none => t

/-- A gait switch ends (R92), the firing before it having ended: the tile is in its new gait, and a recorded target or context switch follows. -/
def execGaitSwitchComplete (r : RegionId) (tile : TileId) (s : State) : Out' :=
  runStep (fun s =>
    let t := getTile s r.toNat tile.toNat
    match t.gait.sw with
    | some (g, fin) =>
      if decide (fin ≤ s.clock) && t.fir.isNone then
        let t := { t with gait := { t.gait with cur := g, sw := none, posted := false, wake := false } }
        let t := startCtxSwitch s t
        retarget (setTile s r.toNat tile.toNat t) r.toNat tile.toNat
      else s
    | none => s) s

/-- Whether a region of a die has a tile waiting to wake. -/
def wantsWake (s : State) (r : Nat) : Bool := s.tiles.cells.any (fun c => c.1 / 256 == r && c.2.gait.wake)

/-- A wake slot of a die (R99): 2 µs after the last; it admits the next waiting region, whose waiting tiles start their wake. -/
def execWakeSlot (die : DieId) (s : State) : Out' :=
  runStep (fun s =>
    let d := getDie s die.toNat
    let open? := match d.wakeAt with | some t => decide (t + 2000 ≤ s.clock) | none => true
    let order := (List.range 4).map (fun k => (d.wakeLast + 1 + k) % 4)
    match open?, order.find? (fun q => wantsWake s (dieRegion die.toNat q)) with
    | true, some q =>
      let r := dieRegion die.toNat q
      let s := updDie s die.toNat (fun d => { d with wakeAt := some s.clock, wakeLast := q })
      { s with tiles := s.tiles.mapVals (fun k t =>
        if k / 256 == r && t.gait.wake then
          let target := targetGait s r t
          { t with gait := { t.gait with wake := false, sw := if target == 0 then none else some (target, switchEnd s.clock 0 target) } }
        else t) }
    | _, _ => s) s

end Sys2Proof.Machine
end

