-- ==== Sys2Proof/Machine/Special.lean ====
section
/-! DEFINITION. MFS and MTS (R266) with the registers whose writes have rules of their own: TVEC, TFRAME, TSTATUS (R207),
GAITFLOOR (R95), QUOTA (R105), LRMAP (R269). -/

namespace Sys2Proof.Machine

def userMode (s : State) : Bool := !(self s).spr.svm

/-- ILLEGAL_OP for an unassigned index (R266). -/
def trapIndex (s : State) : State := raiseSync s 0x01 (s.cur.insn.setWidth 64) false true

/-- MFS (R266): an unassigned index raises ILLEGAL_OP, an SV index in user mode PROTECTION. -/
def execMfs (d : Reg) (i : BitVec 12) (s : State) : Out' :=
  runStep (fun s =>
    if !specialAssigned i.toNat then trapIndex s
    else if specialReadSv i.toNat && userMode s then trapProtection s (i.setWidth 64)
    else result s d (readSpecial s (me s) i.toNat)) s

/-- MTS to an index that has no writable field (R266): ILLEGAL_OP when unassigned, PROTECTION otherwise. The writable registers have
meanings of their own; named here by their index they answer as those do when refused. -/
def execMts (_a : Reg) (i : BitVec 12) (s : State) : Out' :=
  runStep (fun s => if !specialAssigned i.toNat then trapIndex s else trapProtection s (i.setWidth 64)) s

/-- MTS TVEC: bits [1:0] reserved (R266). -/
def execTvecWrite (a : Reg) (s : State) : Out' :=
  runStep (fun s =>
    let v := opA s a
    if bitsN v 0 2 != 0 then trapReservedOperand s
    else advance (updSelf s (fun st => { st with spr := { st.spr with tvec := v } }))) s

/-- MTS TFRAME: bits [5:0] reserved; delivery that waited for a frame is attempted again (R212). -/
def execTframeWrite (a : Reg) (s : State) : Out' :=
  runStep (fun s =>
    let v := opA s a
    if bitsN v 0 6 != 0 then trapReservedOperand s
    else advance (updSelf s (fun st => { st with spr := { st.spr with tframe := v }, traps := { st.traps with blocked := false } }))) s

/-- MTS TSTATUS (R207): bits [63:10] reserved; DBA and SS may be changed in supervisor mode alone; SVM and NPEND are read only. -/
def execTstatusWrite (a : Reg) (s : State) : Out' :=
  runStep (fun s =>
    let v := opA s a
    let p := (self s).spr
    if bitsN v 10 54 != 0 then trapReservedOperand s
    else if userMode s && (bit v 4 != p.dba || bit v 3 != p.ss) then trapProtection s 0x00B
    else advance (updSelf s (fun st => { st with spr := { st.spr with inh := bit v 0, tfe := bit v 2, ss := bit v 3, dba := bit v 4 } }))) s

/-- MTS GAITFLOOR (R95): PROG is 1 or 2; the tiles of the region follow the new floor (R93). -/
def execGaitfloorWrite (a : Reg) (s : State) : Out' :=
  runStep (fun s =>
    let v := opA s a
    if bitsN v 5 59 != 0 || bitsN v 0 2 == 0 || bitsN v 0 2 == 3 then trapReservedOperand s
    else
      let r := s.cur.reg.toNat
      advance (retargetRegion (updRegion s r (fun g => { g with prog := bits v 0 2 })) r)) s

/-- MTS QUOTA (R105, R107): supervisor only; EN and REMAIN are written. -/
def execQuotaWrite (a : Reg) (s : State) : Out' :=
  runStep (fun s =>
    let v := opA s a
    if userMode s then trapProtection s 0x010
    else advance (updTeam s (myTeam s).id (fun t => { t with energy := setRemain t.energy (bit v 63) (remainOf v) }))) s

/-- MTS LRMAP word q (R269): supervisor only; a field 3 raises RESERVED_FIELD; a field that holds 3 keeps it. -/
def execLrmapWrite (a : Reg) (q : BitVec 2) (s : State) : Out' :=
  runStep (fun s =>
    let v := opA s a
    if userMode s then trapProtection s (0x020 + q.setWidth 64)
    else if (List.range 32).any (fun j => bitsN v (2 * j) 2 == 3) then trapReservedOperand s
    else advance ((List.range 32).foldl (fun s j =>
      updRegion s (32 * q.toNat + j) (fun g => if g.lr == 3 then g else { g with lr := bits v (2 * j) 2 })) s)) s

end Sys2Proof.Machine
end

