-- ==== Sys2Proof/Machine/LoadStore.lean ====
section
/-! DEFINITION. Loads, stores, the Carter page (R165, R166, R264), atomics and PHASE (R176, R177, R270, R271). -/

namespace Sys2Proof.Machine

/-- A load of n bytes (R264): alignment, the Carter page, translation, then the value by R173. -/
def loadInto (s : State) (n : Nat) (ext : Word → Word) (d b : Reg) (o : Half) : State :=
  let ea := effAddr s b o
  if ea.toNat % n != 0 then trapMisalign s ea
  else match translate s (strandSpace s (me s)) ea .read with
    | .cart off =>
      let c := (getRegion s s.cur.reg.toNat).carters.getD (off / 64) {}
      if n == 8 && decide (off < 512) && off % 64 == 8 then result s d (carterStatus c)
      else if n == 8 && decide (off < 512) && off % 64 == 16 then result s d (BitVec.ofNat 64 c.lost)
      else trapProtection s ea
    | _ => withKey s ea n .read (fun key s =>
        let x := loadBytes s (me s) key n
        result x.2 d (ext (BitVec.ofNat 64 (ofBytes x.1))))

/-- LD, signed (R264). -/
def execLd (z : BitVec 2) (d b : Reg) (o : Half) (s : State) : Out' := runStep (fun s => loadInto s (szBytes z) (sx z) d b o) s
/-- LD.WH.W (R264). -/
def execLdWhW (d b : Reg) (o : Half) (s : State) : Out' := runStep (fun s => loadInto s 4 (zx 1) d b o) s
/-- LD.WH.H (R264). -/
def execLdWhH (d b : Reg) (o : Half) (s : State) : Out' := runStep (fun s => loadInto s 2 (zx 2) d b o) s
/-- LD.WH.B (R264). -/
def execLdWhB (d b : Reg) (o : Half) (s : State) : Out' := runStep (fun s => loadInto s 1 (zx 3) d b o) s

/-- A Carter start word (R166): a bad template index raises CARTER_FAULT, a full queue holds the strand; otherwise the start takes a
number and is queued, with a STRAND-scope release (R178). -/
def startWord (s : State) (c : Nat) (v : Word) : State :=
  let r := s.cur.reg.toNat
  let tidx := bitsN v 0 16
  if decide (1024 ≤ tidx) || ((myTeam s).tmpl.find? tidx).isNone then raiseSync s 0x16 v false true
  else if decide (16 ≤ ((getRegion s r).carters.getD c {}).queue.length) then holdSelf s (.carter (BitVec.ofNat 3 c))
  else if (self s).view.stores.any (·.sent) then holdSelf s .sent
  else
    let s := release s (me s) 0
    let n := takeNumber s
    let start : CStart := { word := v, num := n.1, strand := s.cur.str }
    let s := updRegion n.2 r (fun g =>
      let k := g.carters.getD c {}
      { g with carters := g.carters.put c { k with queue := k.queue ++ [start] } })
    advance s n.1

/-- A store of n bytes (R264). -/
def storeFrom (s : State) (n : Nat) (r b : Reg) (o : Half) : State :=
  let ea := effAddr s b o
  let v := opB s r
  if ea.toNat % n != 0 then trapMisalign s ea
  else match translate s (strandSpace s (me s)) ea .write with
    | .cart off =>
      if n == 8 && decide (off < 512) && off % 64 == 0 then startWord s (off / 64) v else trapProtection s ea
    | _ => withKey s ea n .write (fun key s => advance (storeBytes s (me s) key (toBytes v n)))

/-- ST (R264). -/
def execSt (z : BitVec 2) (r b : Reg) (o : Half) (s : State) : Out' := runStep (fun s => storeFrom s (szBytes z) r b o) s

/-- An ST.D to offset 64·c of the Carter page (R166); elsewhere it is the store it is. -/
def execCarterStart (r b : Reg) (o : Half) (s : State) : Out' := runStep (fun s => storeFrom s 8 r b o) s

/-- After a compare that failed, bytes that were bound and not read are bound again by the next load of their 8-byte word (R177). -/
def unbind (s : State) (i key : Nat) : State :=
  let base := key / 8 * 8
  updStrand s i (fun st =>
    if (List.range 8).any (fun j => (st.view.snap.getD (base + j) {}).read) then st
    else { st with view := { st.view with snap := st.view.snap.mapVals (fun k e => if k / 8 * 8 == base then { e with mem := none } else e) } })

/-- An atomic at its home (R177, R270): `f` gives the new value, or none when nothing is written. REL releases first and ACQ acquires
after, at the scope given; without them it is ordered by R175 and its address alone. The strand's next load of the bytes sees what it
wrote. -/
def atomicAt (s : State) (d a : Reg) (c : BitVec 3) (z r q : Bool) (f : State → Nat → Option Nat) : State :=
  let n := if z then 4 else 8
  let va := opA s a
  withAligned s va n .atomic (fun key s =>
    let i := me s
    let s := if r then performOwn (release s i c.toNat) i key n else s
    let old := ofBytes (readBytes s key n)
    let s := match f s old with
      | some v => storeNow s i key (toBytes (BitVec.ofNat 64 v) n)
      | none => unbind s i key
    let s := if q then acquire s i else s
    result s d (sext (8 * n) (BitVec.ofNat 64 old)))

/-- AMO (R270). -/
def execAmo (d a b : Reg) (c : BitVec 3) (z r q : Bool) (o : BitVec 4) (s : State) : Out' :=
  runStep (fun s =>
    let w := if z then 32 else 64
    let v := (opB s b).toNat % 2 ^ w
    atomicAt s d a c z r q (fun _ old => some (aopNew w o.toNat old v))) s

/-- CAS (R270): the compare value is read from g[d] at issue (R209). -/
def execCas (d a b : Reg) (c : BitVec 3) (z r q : Bool) (s : State) : Out' :=
  runStep (fun s =>
    let w := if z then 32 else 64
    let v := (opB s b).toNat % 2 ^ w
    let cmp := ((self s).reg d).toNat % 2 ^ w
    atomicAt s d a c z r q (fun _ old => if old == cmp then some v else none)) s

/-- PHASE (R176, R271): 1 ACQ, 2 REL, 3 AR. -/
def execPhase (c : BitVec 3) (o : BitVec 2) (s : State) : Out' :=
  runStep (fun s =>
    let i := me s
    let s := if bit o 1 then release s i c.toNat else s
    let s := if bit o 0 then acquirePhase s i else endPhase s i
    advance s) s

end Sys2Proof.Machine
end

