-- ==== Sys2Proof/Machine/Wait.lean ====
section
/-! DEFINITION. Waits and what ends them: WAITGE, BAR, LOCK, UNLOCK, TETHER, UNTETHER, CWAIT (R272–R277), barriers (R97, R273), the
tether table (R76–R89), knots (R83–R86, R369), priority inheritance (R87, R88), async delivery (R212). -/

namespace Sys2Proof.Machine

/-! ### Tether table -/

/-- Home die of an object key (R76). -/
def tethHome (o : Word) : Nat := bitsN o 8 5 ^^^ bitsN o 13 5 ^^^ bitsN o 18 5 ^^^ bitsN o 23 5

/-- Insert an entry for a strand (R79, R89): false on overflow, counted in TOVF. -/
def tethInsert (s : State) (i : Nat) (kind : BitVec 3) (obj : Word) (owner : Option Nat) : Bool × State :=
  let g := gidOf s i
  let mine := s.teth.entries.find? (fun e => e.waiter == g)
  let covered := match mine with | some e => e.kind == 4 && e.obj == obj && kind != 4 | none => false
  if covered then (true, s)
  else if decide (512 ≤ (s.teth.entries.filter (fun e => tethHome e.obj == tethHome obj)).length) then
    (false, { s with teth := { s.teth with tovf := min (s.teth.tovf + 1) (2 ^ 32 - 1) } })
  else
    let e : Teth := { waiter := g, owner := owner, kind := kind, prio := (getStrand s i).spr.eprio
                      atag := BitVec.ofNat 12 ((teamOf s (i / 4)).getD {}).atag, obj := obj, seen := owner.isNone }
    let s := dropTether s g
    let s := bump s (i / 4) 40 1
    (true, { s with teth := { s.teth with entries := s.teth.entries ++ [e], dirty := s.teth.dirty ++ ownersOf s [e]
                                          walks := if owner.isSome then s.teth.walks ++ [g] else s.teth.walks } })

/-- Register an implicit wait and wait; TETHER_FULL under TFE = 1 (R79, R89). -/
def tetheredWait (s : State) (kind : BitVec 3) (obj : Word) (owner : Option Nat) (on : WaitOn) (d : Reg) (opb : Word)
    (also : State → State) : State :=
  let x := tethInsert s (me s) kind obj owner
  if landing s then waitSelf s on d opb
  else if !x.1 && (self s).spr.tfe then raiseSync x.2 0x0C (BitVec.ofNat 64 (tethHome obj)) false true
  else waitSelf (also x.2) on d opb

/-- The path of a walk (R83): the triples found, and whether it closed on the waiter, or was too long. -/
def walkPath (s : State) (w : Nat) : Nat → Teth → List Teth → Option (List Teth) × Bool
  | 0, _, _ => (none, true)
  | n + 1, e, path =>
    match e.owner with
    | none => (none, false)
    | some x =>
      if x == w then (some path, false)
      else if n == 0 then (none, true)
      else if x / 512 != modN s then (none, false)
      else match s.teth.entries.find? (fun f => f.waiter == x && f.seen) with
        | some f => if f.owner.isNone then (none, false) else walkPath s w n f (path ++ [f])
        | none => (none, false)

/-- The cycle record (R85). -/
def knotRecord (serial : Nat) (path : List Teth) : List Word :=
  [BitVec.ofNat 64 path.length, BitVec.ofNat 64 serial] ++ path.flatMap (fun e =>
    [e.obj, BitVec.ofNat 64 (e.owner.getD 0 * 2 ^ 32 + e.kind.toNat * 2 ^ 24 + e.waiter)])

/-- Whether a strand can take a KNOT now: it waits, or nothing outside the team holds it (R84; log 12). -/
def Strand.knotReady (st : Strand) : Bool :=
  st.wait.isSome || (st.run != .stopped && st.hold != some .firmware && st.hold != some .killed && st.hold != some .closed && st.traps.due.isNone)

/-- One walk of the master Ostler (R82, R83): the oldest request; a knot removes its entry. The request of a strand that could not take
the knot goes behind the others (log 12). -/
def walkOnce (s : State) : State × Option (Nat × List Word) :=
  match s.teth.walks with
  | [] => (s, none)
  | g :: rest =>
    if !(getStrand s (g % 512)).knotReady then ({ s with teth := { s.teth with walks := rest ++ [g] } }, none) else
    let serial := s.teth.serial + 1
    let s := { s with teth := { s.teth with walks := rest, serial := serial } }
    match s.teth.entries.find? (fun e => e.waiter == g) with
    | none => (s, none)
    | some e =>
      match walkPath s g 16 e [e] with
      | (some path, _) =>
        let s := dropLockWait (dropTether s g) (g % 512)
        let s := bump s (g % 512 / 4) 48 1
        ({ s with teth := { s.teth with knots := s.teth.knots + 1 } }, some (g % 512, knotRecord serial path))
      | (none, long) =>
        ({ s with teth := { s.teth with
            tlong := if long then s.teth.tlong + 1 else s.teth.tlong
            entries := s.teth.entries.map (fun f => if f.waiter == g then { f with seen := true } else f) } }, none)

/-- KNOT to a strand (R84, R369): its wait is withdrawn into a REISSUE entry. One that does not wait, because its USER entry was inserted
again by a RESTORE, takes the trap before its next instruction (log 12). -/
def deliverKnot (s : State) (i : Nat) (rec : List Word) : State :=
  let st := getStrand s i
  match st.wait with
  | some w =>
    let e : Entry := { pc := w.pc, insn := w.insn, st := 1, opa := w.opa, opb := 0 }
    let s := updStrand s i (fun st => { st with wait := none, run := .ready })
    toTeam s i { code := 0x0B, tval := rec.getD 0 0 } w.pc st.pc (e :: st.traps.replay) rec
  | none =>
    let idle := st.run == .idle
    let d : Due := { cause := { code := 0x0B, tval := rec.getD 0 0 }, tpc := st.pc, rpc := if idle then 0 else st.pc
                     ents := if idle then [] else st.traps.replay, knot := rec }
    if !st.live.isEmpty then raiseLater s i d
    else
      let s := toTeam s i d.cause d.tpc d.rpc d.ents rec
      if st.hold == some .start then updStrand s i (fun x => if x.run == .ready && x.hold.isNone then { x with hold := some .start } else x) else s

/-- A walk of the module (R82–R85). -/
def execTetherWalk (s : State) : Out' :=
  runStep (fun s =>
    match walkOnce s with
    | (s, some k) => deliverKnot s k.1 k.2
    | (s, none) => s) s

/-- Walk every request up to the issuing strand's own. -/
def walkUntil (s : State) (g : Nat) : Nat → State × Option (List Word)
  | 0 => (s, none)
  | n + 1 =>
    if !s.teth.walks.contains g then (s, none)
    else match walkOnce s with
      | (s, some k) => if gidOf s k.1 == g then (s, some k.2) else walkUntil (deliverKnot s k.1 k.2) g n
      | (s, none) => walkUntil s g n

/-- TETHER (R80, R276): a USER entry for the object; its walk ends before it completes (log 12). -/
def execTether (d a b : Reg) (s : State) : Out' :=
  runStep (fun s =>
    let v := opB s b
    withAligned s (opA s a) 8 .read (fun key s =>
      if v != 0 && !isOwner v then trapReservedOperand s
      else
        let i := me s
        let x := tethInsert s i 4 (memObj key) (if v == 0 then none else some (bitsN v 0 22))
        if x.1 then
          match walkUntil x.2 (gidOf s i) (x.2.teth.walks.length + 1) with
          | (s, some rec) =>
            let y := captured s
            toTeam s i { code := 0x0B, tval := rec.getD 0 0 } s.cur.pc (nextPc s) (curEntry s 1 y.1 y.2 :: (self s).traps.replay) rec
          | (s, none) => result s d 1
        else if (self s).spr.tfe then raiseSync x.2 0x0C (BitVec.ofNat 64 (tethHome (memObj key))) false true
        else result x.2 d 0)) s

/-- UNTETHER (R80): the strand's USER entry for the object goes. -/
def execUntether (a : Reg) (s : State) : Out' :=
  runStep (fun s =>
    withAligned s (opA s a) 8 .read (fun key s =>
      let g := gidOf s (me s)
      let hit := s.teth.entries.any (fun e => e.waiter == g && e.kind == 4 && e.obj == memObj key)
      advance (if hit then dropTether s g else s))) s

/-! ### Counters and locks -/

/-- WAITGE (R272). -/
def execWaitge (d a b : Reg) (_c : BitVec 3) (s : State) : Out' :=
  runStep (fun s =>
    let target := opB s b
    withAligned s (opA s a) 8 .read (fun key s =>
      let i := me s
      let s := performOwn s i key 8
      let v := readWord s key
      if decide (target.toNat ≤ v.toNat) then result (acquire s i) d v
      else tetheredWait s 3 (memObj key) none (.counter key target) d target id)) s

/-- A satisfied WAITGE completes with the value that satisfied it, and acquires (R272). -/
def execWaitgeSatisfied (r : RegionId) (t : StrandNo) (s : State) : Out' :=
  runStep (fun s =>
    let i := sid r t
    match (getStrand s i).wait with
    | some w => match w.on, w.met with
      | .counter _ _, some v => acquire (endWait s i v) i
      | _, _ => s
    | none => s) s

/-- LOCK (R274): a free word is taken; otherwise the strand waits in the word's order, tethered to the holder it names. -/
def execLock (d a : Reg) (_c : BitVec 3) (s : State) : Out' :=
  runStep (fun s =>
    withAligned s (opA s a) 8 .atomic (fun key s =>
      let i := me s
      let w := readWord s key
      if w == 0 then result (acquire (storeNow s i key (toBytes (ownerWord s i) 8)) i) d 0
      else
        tetheredWait s 1 (memObj key) (if isOwner w then some (bitsN w 0 22) else none) (.lock key) d 0
          (fun s => { s with teth := { s.teth with locks := s.teth.locks.put key (s.teth.locks.getD key [] ++ [i]) } }))) s

/-- UNLOCK (R275): releases; the lock passes to the first waiter, or the word becomes 0. -/
def execUnlock (d a : Reg) (c : BitVec 3) (s : State) : Out' :=
  runStep (fun s =>
    withAligned s (opA s a) 8 .atomic (fun key s =>
      let i := me s
      let s := performOwn (release s i c.toNat) i key 8
      if readWord s key == ownerWord s i then
        match s.teth.locks.getD key [] with
        | j :: rest => result (grantLock s key j rest) d 1
        | [] => result (storeNow s i key (toBytes (0 : Word) 8)) d 1
      else result s d 0)) s

/-! ### Barriers -/

/-- Barrier of a scope: the region's (1) or the team's (2) (R273). -/
def getBarrier (s : State) (r scope : Nat) : Barrier :=
  if scope == 1 then (getRegion s r).barrier else ((teamOf s r).getD {}).barrier

def setBarrier (s : State) (r scope : Nat) (b : Barrier) : State :=
  if scope == 1 then updRegion s r (fun g => { g with barrier := b })
  else updTeam s ((teamOf s r).getD {}).id (fun t => { t with barrier := b })

/-- Whether two regions share a barrier of a scope. -/
def sameBarrier (s : State) (scope r r' : Nat) : Bool :=
  if scope == 1 then r == r' else r == r' || ((teamOf s r).isSome && (teamOf s r).map (·.id) == (teamOf s r').map (·.id))

/-- One arrival (R273), with its count if it carries one: the first count fixes N; the epoch releases when its arrivals reach N.
Answers the epoch and whether the count differed. -/
def arrive (s : State) (r scope : Nat) (count : Option Nat) : Nat × Bool × State :=
  let b := getBarrier s r scope
  let n := b.n.orElse (fun _ => count)
  let b := { b with arrived := b.arrived + 1, n := n }
  let differs := match count, n with | some c, some m => c != m | _, _ => false
  match n with
  | some m =>
    if decide (m ≤ b.arrived) then
      let s := setBarrier s r scope { epoch := b.epoch + 1, arrived := 0, n := none, ns := m :: b.ns }
      let s := { s with strands := s.strands.mapVals (fun i st =>
        match st.wait with
        | some w => match w.on with
          | .bar sc e own =>
            if sc.toNat == scope && e == b.epoch && sameBarrier s scope r (i / 4) then
              { st with wait := some { w with met := some (BitVec.ofNat 64 (b.epoch + if own == m then 0 else 2 ^ 63)) } }
            else st
          | _ => st
        | none => st) }
      (b.epoch, differs, s)
    else (b.epoch, differs, setBarrier s r scope b)
  | none => (b.epoch, differs, setBarrier s r scope b)

/-- BAR (R273): arrives and releases; completes at once when the epoch releases, otherwise waits. A WAIT entry waits for its epoch
without arriving again. -/
def execBar (d a : Reg) (c : BitVec 3) (s : State) : Out' :=
  runStep (fun s =>
    let scope := c.toNat
    let r := s.cur.reg.toNat
    let i := me s
    if scope != 1 && scope != 2 then trapReservedOperand s
    else
      let cnt := max 1 (bitsN (opA s a) 0 16)
      let opb : Word := match s.cur.cap with | some x => x.2 | none => 0
      let obj := barObj s (myTeam s).id scope
      let done (s : State) (e : Nat) (differs : Bool) : State := result (acquire s i) d (BitVec.ofNat 64 (e + if differs then 2 ^ 63 else 0))
      if bit opb 63 then
        let e := bitsN opb 0 48
        let b := getBarrier s r scope
        if decide (e < b.epoch) then done s e (b.ns[b.epoch - 1 - e]? != some cnt)
        else tetheredWait s 0 obj none (.bar c e cnt) d 0 id
      else if (self s).spr.tfe && !(tethInsert s i 0 obj none).1 && decide ((getBarrier s r scope).n.getD cnt > (getBarrier s r scope).arrived + 1) then
        -- TETHER_FULL is raised before the strand waits, so it has not arrived (R89)
        raiseSync (tethInsert s i 0 obj none).2 0x0C (BitVec.ofNat 64 (tethHome obj)) false true
      else
        let x := arrive (release s i scope) r scope (some cnt)
        if decide (x.1 < (getBarrier x.2.2 r scope).epoch) then done x.2.2 x.1 x.2.1
        else tetheredWait x.2.2 0 obj none (.bar c x.1 cnt) d 0 id) s

/-- A strand sees the release of its barrier, and acquires (R97, R178). -/
def execBarReleaseSeen (r : RegionId) (t : StrandNo) (s : State) : Out' :=
  runStep (fun s =>
    let i := sid r t
    match (getStrand s i).wait with
    | some w => match w.on, w.met with
      | .bar _ _ _, some v => acquire (endWait s i v) i
      | _, _ => s
    | none => s) s

/-- A tile sees the release of a barrier (R97): it may fire again, and a deferred gait is applied. -/
def execTileSeesRelease (r : RegionId) (tile : TileId) (s : State) : Out' :=
  runStep (fun s =>
    let t := getTile s r.toNat tile.toNat
    let gone (h : BitVec 3 × Nat) : Bool := decide (h.2 < (getBarrier s r.toNat h.1.toNat).epoch)
    if t.gait.sw.isSome || !(t.ctxs.vals.any (fun c => match c.hold with | some h => gone h | none => false)) then s
    else
      let t := { t with ctxs := t.ctxs.mapVals (fun _ c => match c.hold with
        | some h => if gone h then { c with hold := none } else c
        | none => c) }
      retarget (setTile s r.toNat tile.toNat t) r.toNat tile.toNat) s

/-! ### CWAIT, async causes, priorities -/

/-- CWAIT (R277). -/
def execCwait (d a : Reg) (s : State) : Out' :=
  runStep (fun s =>
    let q := bitsN (opA s a) 0 48
    let cs := (getRegion s s.cur.reg.toNat).cmds
    if q == 0 || decide (cs.seq ≤ q) then result s d 1
    else if !cs.live.contains q then result (acquire s (me s)) d 0
    else waitSelf s (.cwait q) d 0) s

/-- CWAIT completes once its number has retired, and acquires (R178, R277). -/
def execCwaitComplete (r : RegionId) (t : StrandNo) (s : State) : Out' :=
  runStep (fun s =>
    let i := sid r t
    match (getStrand s i).wait with
    | some w => match w.on with
      | .cwait q => if (getRegion s r.toNat).cmds.live.contains q then s else acquire (endWait s i 0) i
      | _ => s
    | none => s) s

/-- Delivery of the oldest pending async cause (R212). -/
def execAsyncCauseDelivery (r : RegionId) (t : StrandNo) (s : State) : Out' := runStep (fun s => raiseOwed (deliverAsync s (sid r t))) s

/-- EPRIO of a strand from its base priority and the entries that name it as owner (R87). -/
def eprioOf (s : State) (i : Nat) : BitVec 3 :=
  s.teth.entries.foldl (fun p e => if e.owner == some (gidOf s i) && decide (p.toNat < e.prio.toNat) then e.prio else p)
    (getStrand s i).spr.prio

/-- A strand's EPRIO settles, its own entry carries it, and the strand that entry names follows, for so many hops (R87). -/
def eprioGo (s : State) (i : Nat) : Nat → State
  | 0 => s
  | n + 1 =>
    let p := eprioOf s i
    let g := gidOf s i
    let s := updStrand s i (fun st => { st with spr := { st.spr with eprio := p } })
    let s := { s with teth := { s.teth with entries := s.teth.entries.map (fun e => if e.waiter == g then { e with prio := p } else e) } }
    match ownersOf s (s.teth.entries.filter (fun e => e.waiter == g)) with
    | j :: _ => eprioGo s j n
    | [] => s

/-- Priorities settle over up to 16 hops from each entry that changed (R87), and the floors of boosted regions follow (R88). -/
def execPriorityPropagate (s : State) : Out' :=
  runStep (fun s =>
    let s := s.teth.dirty.foldl (fun s i => eprioGo s i 16) { s with teth := { s.teth with dirty := [] } }
    { s with tiles := s.tiles.mapVals (fun k t => retargetTile s (k / 256) t) }) s

end Sys2Proof.Machine
end

