-- ==== Sys2Proof/Machine/Teams.lean ====
section
/-! DEFINITION. What every team operation shares: counters in a team's space, the fault queue (R162), freeing regions (R69),
entering RETIRING (R69), the mailbox's answers. -/

namespace Sys2Proof.Machine

/-- A mailbox command that takes effect: its reply raises an MSI-X vector (R34; log 54); neither names one of the two host ports (DESIGN CHOICE: no rule
says which; log 54). -/
def reply (s : State) (cmd : String) (data : List Word := []) : State := emit (emit s (.reply cmd data)) (.msix 0)
/-- A mailbox command that is refused and changes nothing. -/
def refuse (s : State) (cmd why : String) : State := emit (emit s (.refuse cmd why)) (.msix 0)

/-- An 8-byte aligned, writable address of a space with its leaf, or none. -/
def wordKey (s : State) (c : Space) (va : Word) : Option (Nat × Word) :=
  if va.toNat % 8 != 0 then none
  else match translateNow s c va .write with
    | .ok key pte => some (key, pte)
    | _ => none

/-- Change a word of a team's space through the TLBs, its bytes counted (R156, R160); one that cannot be written is skipped and a mailbox event
names it (R69, R73). -/
def teamWord (s : State) (t : Team) (va : Word) (f : Word → Word) : State :=
  let c := t.space t.svm
  if va = 0 then s
  else match wordKey s c va with
    | some q => writeWord (account (walkNow s c va .write) q.1 q.2 8) q.1 (f (readWord s q.1))
    | none => emit s (.event "COUNTER_SKIPPED" [BitVec.ofNat 64 t.id, va])

/-- Add to a counter of a team's space. -/
def teamAdd (s : State) (t : Team) (va : Word) (n : Word) : State := teamWord s t va (· + n)

/-- Write a word of a team's space. -/
def teamPut (s : State) (t : Team) (va : Word) (v : Word) : State := teamWord s t va (fun _ => v)

/-! ### The fault queue (R162) -/

/-- Post an entry to a die's queue; with 512 entries it waits and FQOVF is set. -/
def postFault (s : State) (die : Nat) (e : FEntry) : State :=
  let q := s.trans.fq.getD die []
  if decide (q.length < Config.faultQueueEntries) then { s with trans := { s.trans with fq := s.trans.fq.put die (q ++ [e]) } }
  else { s with trans := { s.trans with
    fqWait := s.trans.fqWait.put die (s.trans.fqWait.getD die [] ++ [e])
    fqovf := if s.trans.fqovf.contains die then s.trans.fqovf else die :: s.trans.fqovf } }

/-- Waiting entries take the places that were freed. -/
def refillFaults (s : State) (die : Nat) : State :=
  let q := s.trans.fq.getD die []
  let w := s.trans.fqWait.getD die []
  let n := Config.faultQueueEntries - q.length
  if w.isEmpty then s
  else { s with trans := { s.trans with fq := s.trans.fq.put die (q ++ w.take n), fqWait := s.trans.fqWait.put die (w.drop n) } }

/-- Remove the first entry of a die that satisfies a test. -/
def takeFault (s : State) (die : Nat) (p : FEntry → Bool) : Option FEntry × State :=
  let q := s.trans.fq.getD die []
  match q.find? p with
  | some e => (some e, refillFaults { s with trans := { s.trans with fq := s.trans.fq.put die (q.erase e) } } die)
  | none => (none, s)

/-- Remove every entry of a tag (R163, R222). -/
def dropFaults (s : State) (tag : Nat) : State :=
  let keep (l : List FEntry) : List FEntry := l.filter (fun e => bitsN e.w1 39 12 != tag)
  let s := { s with trans := { s.trans with fq := s.trans.fq.mapVals (fun _ l => keep l), fqWait := s.trans.fqWait.mapVals (fun _ l => keep l) } }
  (List.range 32).foldl refillFaults s

/-! ### Regions and retirement -/

/-- A strand that holds no work. -/
def Strand.cleared (st : Strand) : Strand :=
  { st with run := .idle, hold := none, wait := none, task := none, inTask := false, wbuf := [], wown := {}, ended := false, yielded := false
            view := {}, c0 := 0, epochs := {}
            traps := { frame := st.traps.frame } }

/-- A tile whose region is freed stands in STABLED at once (R69, R94; log 40). -/
def GaitSt.freed (g : GaitSt) : GaitSt := { g with cur := 0, req := 0, sw := none, wake := false, posted := false }

/-- Channels that begin or end in regions that a team gives up go (R70). -/
def dropRegionChans (s : State) (id : Nat) (rs : List Nat) : State :=
  { s with chans := ⟨s.chans.cells.filter (fun c => !(c.2.team == id && (rs.contains c.2.preg ||
      c.2.branches.any (fun b => b.kind == 0 && !b.remote &&
        rs.contains (teamTile (getTeam s id) (Br.ctx b.word) (Br.cty b.word)).1))))⟩ }

/-- Regions leave a team (R69): strands hold no work, tiles go to STABLED, the region's queues are empty. -/
def freeRegions (s : State) (rs : List Nat) : State :=
  let s := rs.foldl (fun s r => (List.range 4).foldl (fun s t =>
    let i := r * 4 + t
    dropLockWait (dropTether (release s i 4) (gidOf s i)) i) s) s
  { s with
    strands := s.strands.mapVals (fun i st => if rs.contains (i / 4) then st.cleared else st)
    regions := s.regions.mapVals (fun r g => if rs.contains r then
      { g with cmds := {}, ports := {}, sects := {}, ctrlq := [], carters := {}, barrier := {}, prog := 1 } else g)
    tiles := s.tiles.mapVals (fun k t => if rs.contains (k / 256) then { t with ctxs := {}, reqs := [], cswDue := none, fir := none, gait := t.gait.freed } else t) }

/-- Start a strand (R72, R285): g30 is unchanged, the named registers are set, the others are zero, its snapshot is empty but for its own
stores that are not yet performed, and the operand log holds no write of these registers (R214); a strand of a team of the firmware starts
in supervisor mode (R372). -/
def startStrand (s : State) (i : Nat) (pc : Word) (rs : List (Reg × Word)) : State :=
  let svm := match teamOf s (i / 4) with | some t => t.svm | none => (getStrand s i).spr.svm
  updStrand s i (fun st =>
    let regs := (Vector.replicate 32 (0 : Word)).set 30 (st.regs[30])
    let log := st.oplog.filter (fun x => x.1 == 30)
    let st := { st with regs := regs, pc := pc, run := .ready, hold := none, wait := none, yielded := false
                        badpar := st.badpar.filter (fun x => x.1 == 30)
                        view := { st.view with snap := ownSnap st.view.stores }
                        spr := { st.spr with svm := svm }
                        traps := { st.traps with replay := [], idleAfter := false, stepDue := false, due := none, paid := false } }
    { rs.foldl (fun st x => st.setReg x.1 x.2) st with oplog := log })

end Sys2Proof.Machine
end

