-- ==== Sys2Proof/Machine/Engine.lean ====
section
/-! DEFINITION. Accesses of the engines (R156, R162, R164): blocks of bytes split at 64-byte lines, translated at once, counted in
their accounting class, and checked against the watch filters. -/

namespace Sys2Proof.Machine

/-- Part of an access within one 64-byte line. -/
structure Piece where
  va : Word := 0
  key : Nat := 0
  len : Nat := 0
  pte : Word := 0
  deriving DecidableEq, Repr

/-- Why an engine's access faults (R162): address, cause, MAL, LVL. -/
structure XFault where
  va : Word := 0
  code : Byte := 0
  mal : Bool := false
  lvl : Nat := 0
  deriving DecidableEq, Repr

/-- Addresses and lengths of [va, va + n) cut at multiples of 64, at most `fuel` parts. -/
def splitLines (va : Word) : Nat → Nat → List (Word × Nat)
  | 0, _ => []
  | fuel + 1, n =>
    if n = 0 then []
    else
      let m := min n (64 - va.toNat % 64)
      (va, m) :: splitLines (va + BitVec.ofNat 64 m) fuel (n - m)

/-- Translate the parts of an access. -/
def xlParts (s : State) (c : Space) (k : Acc) : List (Word × Nat) → Except XFault (List Piece)
  | [] => .ok []
  | p :: ps =>
    match translateNow s c p.1 k with
    | .ok key pte => (xlParts s c k ps).map ({ va := p.1, key := key, len := p.2, pte := pte } :: ·)
    | .bad code _ mal lvl => .error { va := p.1, code := code, mal := mal, lvl := lvl }
    | _ => .error { va := p.1, code := 0x05 }

/-- Translate n bytes at an address for an engine. -/
def engineXl (s : State) (c : Space) (va : Word) (n : Nat) (k : Acc) : Except XFault (List Piece) := xlParts s c k (splitLines va (n / 64 + 2) n)

/-- Whether the access must wait in a die's miss queue (R160). -/
def engineBlocked (s : State) (c : Space) (va : Word) (n : Nat) (k : Acc) : Bool :=
  (splitLines va (n / 64 + 2) n).any (fun p => missBlocked s c p.1 k)

/-- What an engine's access does to the TLBs (R160), and the stores that are performed for the engine when it reaches their bytes
(R172). -/
def enginePrep (s : State) (c : Space) (va : Word) (n : Nat) (k : Acc) : State :=
  (splitLines va (n / 64 + 2) n).foldl (fun s p =>
    let s := walkNow s c p.1 k
    if s.part.isEmpty then s
    else match translate s c p.1 k with
      | .ok key _ => seen s c.reg none key p.2
      | _ => s) s

/-- The engine's miss waits in the miss queue (R160). -/
def engineQueue (s : State) (c : Space) (va : Word) (n : Nat) (k : Acc) : State :=
  (splitLines va (n / 64 + 2) n).foldl (fun s p => match translate s c p.1 k with
    | .miss page => startWalk s { die := regionDie c.reg, tag := c.tag, page := page }
    | _ => s) s

/-- An engine's access, once no page of it must wait for a walk (R160). -/
def withEngine (s : State) (c : Space) (va : Word) (n : Nat) (k : Acc) (f : State → State) : State :=
  if engineBlocked s c va n k then engineQueue s c va n k else f (enginePrep s c va n k)

/-- The lowest byte of an uncorrectable word that an access touches (R215). -/
def badAt (s : State) (ps : List Piece) : Option Word :=
  ps.findSome? (fun p =>
    match (s.poison.filter (fun k => decide (k < p.key + p.len) && decide (p.key < k + 8))) with
    | [] => none
    | k :: ks => some (p.va + BitVec.ofNat 64 (ks.foldl min k - p.key)))

def piecesBad (s : State) (ps : List Piece) : Bool := ps.any (fun p => poisoned s p.key p.len)

def readPieces (s : State) (ps : List Piece) : List Byte := ps.flatMap (fun p => readBytes s p.key p.len)

def writePieces (s : State) : List Piece → List Byte → State
  | [], _ => s
  | p :: ps, bs => writePieces (writeBytes s p.key (bs.take p.len)) ps (bs.drop p.len)

/-- Count the bytes moved in their classes (R156). -/
def accountPieces (s : State) (ps : List Piece) : State := ps.foldl (fun s p => account s p.key p.pte p.len) s

/-- The lowest watched byte that an access touches (R164). -/
def watchPieces (s : State) (tag : Nat) (ps : List Piece) (k : Acc) : Option Word :=
  ps.findSome? (fun p => (watchHit s tag p.key p.pte p.len k).map (fun j => p.va + BitVec.ofNat 64 j))

/-- Whether a piece lies in HBM: its line costs two draw tokens (R104). -/
def Piece.hbm (p : Piece) : Bool := decide (p.key % 2 ^ 48 < 2 ^ 41)

end Sys2Proof.Machine
end

