-- ==== Sys2Proof/Machine/Num.lean ====
section
/-! DEFINITION. Number formats and exact arithmetic (11, R184–R203): element types, exact values, the single rounding of R188,
the special values of R190 and R191, conversions (R192), PX blocks (R193–R196), the stochastic LFSR (R189) and the correctly
rounded functions of R329. -/

namespace Sys2Proof.Machine

/-- The element types by their type codes (R240). -/
inductive Ty where
  | fp32 | bf16 | fp16 | e4m3 | e5m2 | px2 | px4 | px7 | int8 | int16 | int32 | w8 | w16 | w32 | int64
  deriving DecidableEq, Repr

namespace Ty

/-- The type of a type code; code 15 names none (R240). -/
def ofCode : Nat → Option Ty
  | 0 => some fp32 | 1 => some bf16 | 2 => some fp16 | 3 => some e4m3 | 4 => some e5m2
  | 5 => some px2 | 6 => some px4 | 7 => some px7 | 8 => some int8 | 9 => some int16
  | 10 => some int32 | 11 => some w8 | 12 => some w16 | 13 => some w32 | 14 => some int64
  | _ => none

def code : Ty → Nat
  | fp32 => 0 | bf16 => 1 | fp16 => 2 | e4m3 => 3 | e5m2 => 4 | px2 => 5 | px4 => 6 | px7 => 7
  | int8 => 8 | int16 => 9 | int32 => 10 | w8 => 11 | w16 => 12 | w32 => 13 | int64 => 14

/-- Lane width in bits (R184); PX formats are not laned and answer the block size in bits (R193). -/
def width : Ty → Nat
  | fp32 | int32 | w32 => 32
  | bf16 | fp16 | int16 | w16 => 16
  | e4m3 | e5m2 | int8 | w8 => 8
  | int64 => 64
  | px2 => 64 | px4 => 96 | px7 => 144

/-- Lanes of a 512-bit token (R184). -/
def lanes (t : Ty) : Nat := 512 / t.width

/-- Significand bits of a PX format (R193). -/
def pxM : Ty → Nat
  | px2 => 2 | px4 => 4 | px7 => 7 | _ => 0

def isPx (t : Ty) : Bool := t.pxM != 0

/-- Class F of R320. -/
def isF : Ty → Bool
  | fp32 | bf16 | fp16 => true | _ => false

/-- The float formats of R185 and R186. -/
def isFloat : Ty → Bool
  | fp32 | bf16 | fp16 | e4m3 | e5m2 => true | _ => false

/-- Class I of R320. -/
def isInt : Ty → Bool
  | int8 | int16 | int32 | int64 | w8 | w16 | w32 => true | _ => false

/-- The two's-complement types (R187). -/
def signed : Ty → Bool
  | int8 | int16 | int32 | int64 => true | _ => false

/-- Class L of R320: every laned type. -/
def isL (t : Ty) : Bool := t.isFloat || t.isInt

end Ty

/-- A float format (R185, R186): exponent bits, significand bits, bias, and whether the top exponent is reserved for
infinities and NaNs as IEEE 754 reserves it (not so in E4M3). -/
structure Fmt where
  eb : Nat
  mb : Nat
  bias : Nat
  ieee : Bool
  deriving DecidableEq, Repr

namespace Fmt

def w (f : Fmt) : Nat := 1 + f.eb + f.mb
/-- The exponent of the smallest quantum (the subnormal spacing). -/
def qmin (f : Fmt) : Int := 1 - (f.bias : Int) - f.mb
/-- Largest finite value as significand and exponent (R186, R190). -/
def maxN (f : Fmt) : Nat := if f.ieee then 2 ^ (f.mb + 1) - 1 else 2 ^ (f.mb + 1) - 2
def maxE (f : Fmt) : Int :=
  if f.ieee then ((2 ^ f.eb : Nat) : Int) - 2 - f.bias - f.mb else ((2 ^ f.eb : Nat) : Int) - 1 - f.bias - f.mb
/-- The code of the largest finite value, without its sign. -/
def maxCode (f : Fmt) : Nat :=
  if f.ieee then (2 ^ f.eb - 2) * 2 ^ f.mb + (2 ^ f.mb - 1) else (2 ^ f.eb - 1) * 2 ^ f.mb + (2 ^ f.mb - 2)
/-- The canonical NaN (R191). -/
def nanCode (f : Fmt) : Nat :=
  if f.ieee then (2 ^ f.eb - 1) * 2 ^ f.mb + 2 ^ (f.mb - 1) else 2 ^ (f.eb + f.mb) - 1
/-- The code of +infinity; the formats without one answer the canonical NaN (R190). -/
def infCode (f : Fmt) : Nat := if f.ieee then (2 ^ f.eb - 1) * 2 ^ f.mb else f.nanCode
def signBit (f : Fmt) (neg : Bool) : Nat := if neg then 2 ^ (f.eb + f.mb) else 0

end Fmt

def Ty.fmt : Ty → Fmt
  | .bf16 => ⟨8, 7, 127, true⟩
  | .fp16 => ⟨5, 10, 15, true⟩
  | .e4m3 => ⟨4, 3, 7, false⟩
  | .e5m2 => ⟨5, 2, 15, true⟩
  | _ => ⟨8, 23, 127, true⟩

/-- A value before rounding: exact (`fin`: (−1)^neg · n · 2^e), or strictly between two neighbours of its own exponent
(`near`: magnitude in (n · 2^e, (n + 1) · 2^e), for the irrational results of R329). -/
inductive Val where
  | nan
  | inf (neg : Bool)
  | fin (neg : Bool) (n : Nat) (e : Int)
  | near (neg : Bool) (n : Nat) (e : Int)
  deriving DecidableEq, Repr

/-- One LFSR step (R189). -/
def lfsrStep (l : Word32) : Word32 :=
  let fb := (bit l 31).xor ((bit l 21).xor ((bit l 1).xor (bit l 0)))
  (l <<< 1) ||| ofBool fb

/-- Read a float code (R185, R186). -/
def decodeFloat (f : Fmt) (c : Nat) : Val :=
  let neg := c / 2 ^ (f.eb + f.mb) % 2 == 1
  let ex := c / 2 ^ f.mb % 2 ^ f.eb
  let fr := c % 2 ^ f.mb
  if f.ieee && ex == 2 ^ f.eb - 1 then (if fr == 0 then .inf neg else .nan)
  else if !f.ieee && ex == 2 ^ f.eb - 1 && fr == 2 ^ f.mb - 1 then .nan
  else if ex == 0 then .fin neg fr f.qmin
  else .fin neg (fr + 2 ^ f.mb) ((ex : Int) - f.bias - f.mb)

/-- Round the magnitude n · 2^e (plus less than one unit when `sticky`) to a multiple of 2^q by the rounding code (R188);
`r` is the low half of the stepped LFSR, used by SR alone (R189). A shift beyond the value's own bits is cut short: only
its sign of exactness matters there. -/
def roundGrid (rnd r : Nat) (neg : Bool) (n : Nat) (e : Int) (sticky : Bool) (q : Int) : Nat :=
  if q ≤ e then n <<< (e - q).toNat
  else
    let sh := min (q - e).toNat (Nat.log2 n + 20)
    let lo := n >>> sh
    let rem := n % 2 ^ sh
    if rem == 0 && !sticky then lo
    else
      let up : Bool := match rnd with
        | 0 => decide (2 * rem > 2 ^ sh) || (2 * rem == 2 ^ sh && (sticky || lo % 2 == 1))
        | 1 => false
        | 2 => neg
        | 3 => !neg
        | _ => decide (r < rem * 65536 / 2 ^ sh)
      if up then lo + 1 else lo

/-- What a finite result beyond the largest finite value becomes (R190). -/
def overflowCode (t : Ty) (rnd : Nat) (sat neg : Bool) : Nat :=
  let f := t.fmt
  f.signBit neg + (if sat then f.maxCode else
    if t == .e5m2 then f.infCode
    else match rnd with
      | 1 => f.maxCode
      | 2 => if neg then f.infCode else f.maxCode
      | 3 => if neg then f.maxCode else f.infCode
      | _ => f.infCode)

/-- E4M3 has no sign on the NaN that an overflow without sat gives (R190, R191). -/
def overflowResult (t : Ty) (rnd : Nat) (sat neg : Bool) : Nat :=
  if t == .e4m3 && !sat then t.fmt.nanCode else overflowCode t rnd sat neg

/-- An infinite result (R190). -/
def infResult (t : Ty) (sat neg : Bool) : Nat :=
  if sat then t.fmt.signBit neg + t.fmt.maxCode
  else if t == .e4m3 then t.fmt.nanCode
  else t.fmt.signBit neg + t.fmt.infCode

/-- Round a finite magnitude into float format `t` (R188, R190). -/
def roundFin (t : Ty) (rnd : Nat) (sat : Bool) (r : Nat) (neg : Bool) (n : Nat) (e : Int) (sticky : Bool) : Nat :=
  let f := t.fmt
  if n == 0 && !sticky then f.signBit neg
  else
    let top := (Nat.log2 n : Int) + e
    if top > 4096 then overflowResult t rnd sat neg
    else
      let q := max (top - f.mb) f.qmin
      let k := roundGrid rnd r neg n e sticky q
      if k * 2 ^ (q - f.qmin).toNat > f.maxN * 2 ^ (f.maxE - f.qmin).toNat then overflowResult t rnd sat neg
      else if k == 0 then f.signBit neg
      else
        let k' := if k ≥ 2 ^ (f.mb + 1) then k / 2 else k
        let q' := if k ≥ 2 ^ (f.mb + 1) then q + 1 else q
        if k' < 2 ^ f.mb then f.signBit neg + k'
        else f.signBit neg + (q' + f.bias + f.mb).toNat * 2 ^ f.mb + (k' - 2 ^ f.mb)

/-- Round a value once into float format `t` (R188–R191). -/
def roundFloat (t : Ty) (rnd : Nat) (sat : Bool) (r : Nat) : Val → Nat
  | .nan => t.fmt.nanCode
  | .inf neg => infResult t sat neg
  | .fin neg n e => roundFin t rnd sat r neg n e false
  | .near neg n e => roundFin t rnd sat r neg n e true

/-- The range of an integer type (R187). -/
def Ty.lo (t : Ty) : Int := if t.signed then -(2 ^ (t.width - 1) : Nat) else 0
def Ty.hi (t : Ty) : Int := if t.signed then (2 ^ (t.width - 1) : Nat) - 1 else (2 ^ t.width : Nat) - 1

def clampInt (lo hi x : Int) : Int := if x < lo then lo else if hi < x then hi else x

/-- The lane bits of an integer modulo 2^w. -/
def wrapInt (w : Nat) (x : Int) : Nat := (x % ((2 ^ w : Nat) : Int)).toNat

/-- Narrow an exact integer to an integer type: wrap, or clamp when sat (R187). -/
def narrowInt (t : Ty) (sat : Bool) (x : Int) : Nat :=
  wrapInt t.width (if sat then clampInt t.lo t.hi x else x)

/-- Read an integer lane (R187). -/
def intLane (t : Ty) (c : Nat) : Int :=
  if t.signed && c ≥ 2 ^ (t.width - 1) then (c : Int) - (2 ^ t.width : Nat) else c

/-- The exact value of an integer. -/
def Val.ofInt (x : Int) : Val := .fin (decide (x < 0)) x.natAbs 0

/-- Read a lane of a laned type. -/
def decodeLane (t : Ty) (c : Nat) : Val :=
  if t.isInt then .ofInt (intLane t c) else decodeFloat t.fmt c

namespace Val

def isNan : Val → Bool
  | nan => true | _ => false

def neg : Val → Val
  | nan => nan | inf s => inf (!s) | fin s n e => fin (!s) n e | near s n e => near (!s) n e

def abs : Val → Val
  | nan => nan | inf _ => inf false | fin _ n e => fin false n e | near _ n e => near false n e

def isNeg : Val → Bool
  | nan => false | inf s => s | fin s _ _ => s | near s _ _ => s

def isZero : Val → Bool
  | fin _ 0 _ => true | _ => false

/-- Signed significand at a common exponent. -/
def signedAt (s : Bool) (n : Nat) (e e0 : Int) : Int :=
  let m : Int := ((n <<< (e - e0).toNat : Nat) : Int)
  if s then -m else m

/-- Exact sum (R191: an exact zero is +0 unless every addend is −0). -/
def add : Val → Val → Val
  | nan, _ => nan
  | _, nan => nan
  | inf s, inf t => if s == t then inf s else nan
  | inf s, _ => inf s
  | _, inf t => inf t
  | fin s 0 e, fin t 0 _ => fin (s && t) 0 e
  | fin _ 0 _, y => y
  | x, fin _ 0 _ => x
  | fin s n e, fin t m g =>
    let e0 := min e g
    let x := signedAt s n e e0 + signedAt t m g e0
    if x == 0 then fin false 0 0 else fin (decide (x < 0)) x.natAbs e0
  | near s n e, _ => near s n e
  | _, near t m g => near t m g

/-- Exact product; 0 · ∞ is NaN (R191, R322). -/
def mul : Val → Val → Val
  | nan, _ => nan
  | _, nan => nan
  | inf s, inf t => inf (s.xor t)
  | inf s, y => if y.isZero then nan else inf (s.xor y.isNeg)
  | x, inf t => if x.isZero then nan else inf (t.xor x.isNeg)
  | fin s n e, fin t m g => fin (s.xor t) (n * m) (e + g)
  | near s n e, _ => near s n e
  | _, near t m g => near t m g

/-- Multiply by 2^k. -/
def scale (k : Int) : Val → Val
  | fin s n e => fin s n (e + k)
  | near s n e => near s n (e + k)
  | v => v

/-- Order of two finite or infinite values, with −0 below +0 when `zeros`. -/
def lt (zeros : Bool) : Val → Val → Bool
  | inf s, inf t => s && !t
  | inf s, _ => s
  | _, inf t => !t
  | fin s n e, fin t m g =>
    let big : Int := 4096
    if n == 0 && m == 0 then zeros && s && !t
    else if n == 0 then !t
    else if m == 0 then s
    else if s != t then s
    else
      let la := (Nat.log2 n : Int) + e
      let lb := (Nat.log2 m : Int) + g
      if la + big < lb then !s
      else if lb + big < la then s
      else
        let e0 := min e g
        decide (signedAt s n e e0 < signedAt t m g e0)
  | _, _ => false

end Val

/-- IEEE 754-2019 minimum (NUM = 0) and minimumNumber (NUM = 1) (R323). -/
def valMin (num : Bool) (a b : Val) : Val :=
  if a.isNan then (if num then b else .nan)
  else if b.isNan then (if num then a else .nan)
  else if Val.lt true b a then b else a

/-- IEEE 754-2019 maximum and maximumNumber (R323). -/
def valMax (num : Bool) (a b : Val) : Val :=
  if a.isNan then (if num then b else .nan)
  else if b.isNan then (if num then a else .nan)
  else if Val.lt true a b then b else a

/-- Round a value to an integer by the rounding code (R192). -/
def roundToInt (rnd r : Nat) : Val → Int
  | .fin neg n e => let k : Int := roundGrid rnd r neg n e false 0; if neg then -k else k
  | .near neg n e => let k : Int := roundGrid rnd r neg n e true 0; if neg then -k else k
  | _ => 0

/-- Write a value into a lane of type `t` (R192): a float result is rounded once; a float going to an integer is rounded,
then clamped whatever sat; an integer going to an integer wraps or clamps by sat. -/
def encodeLane (src t : Ty) (rnd : Nat) (sat : Bool) (r : Nat) (v : Val) : Nat :=
  if t.isInt then
    if src.isInt then narrowInt t sat (match v with | .fin s n _ => if s then -(n : Int) else n | _ => 0)
    else match v with
      | .nan => 0
      | .inf s => wrapInt t.width (if s then t.lo else t.hi)
      | .fin s n e =>
        if (Nat.log2 n : Int) + e > 80 && n != 0 then wrapInt t.width (if s then t.lo else t.hi)
        else wrapInt t.width (clampInt t.lo t.hi (roundToInt rnd r (.fin s n e)))
      | v => wrapInt t.width (clampInt t.lo t.hi (roundToInt rnd r v))
  else roundFloat t rnd sat r v

/-- Whether a conversion takes a rounding code, so that SR steps the LFSR for each element (R187, R189). -/
def roundsBetween (src dst : Ty) : Bool := dst.isFloat || (src.isFloat && dst.isInt)

/-! Lanes of a 512-bit value (R184). -/

def laneN (v : Line) (w e : Nat) : Nat := bitsN v (w * e) w

def natLanes (w : Nat) (v : Nat) : Nat → List Nat
  | 0 => []
  | k + 1 => v % 2 ^ w :: natLanes w (v / 2 ^ w) k

def lanesOf (t : Ty) (v : Line) : List Nat := natLanes t.width v.toNat t.lanes

def packNat (w : Nat) : List Nat → Nat
  | [] => 0
  | c :: cs => c % 2 ^ w + 2 ^ w * packNat w cs

def ofLanes (w : Nat) (cs : List Nat) : Line := BitVec.ofNat 512 (packNat w cs)

/-! Functions of R329. -/

/-- Integer square root by bits, from bit `k − 1` down. -/
def isqrtGo (n : Nat) : Nat → Nat → Nat
  | 0, acc => acc
  | k + 1, acc =>
    let t := acc + 2 ^ k
    isqrtGo n k (if t * t ≤ n then t else acc)

def isqrt (n : Nat) : Nat := isqrtGo n (Nat.log2 n / 2 + 1) 0

/-- 1/x (R329). -/
def valRcp : Val → Val
  | .nan => .nan
  | .inf s => .fin s 0 0
  | .fin s 0 _ => .inf s
  | .fin s n e =>
    let p := Nat.log2 n + 96
    let q := 2 ^ p / n
    if q * n == 2 ^ p then .fin s q (-e - p) else .near s q (-e - p)
  | v => v

/-- 1/√x (R329). -/
def valRsq : Val → Val
  | .nan => .nan
  | .inf s => if s then .nan else .fin false 0 0
  | .fin s 0 _ => .inf s
  | .fin s n e =>
    if s then .nan
    else
      let n' := if e % 2 == 0 then n else 2 * n
      let e' := if e % 2 == 0 then e else e - 1
      let p := Nat.log2 n' / 2 + 96
      let q := isqrt (2 ^ (2 * p) / n')
      if q * q * n' == 2 ^ (2 * p) then .fin false q (-(e' / 2) - p) else .near false q (-(e' / 2) - p)
  | v => v

/-- Working precision of VEXP2, in bits after the point. -/
def expPrec : Nat := 320

/-- 2^f for the fraction f = num / 2^k, k ≤ 320: the product of 2^(2^−i) over the set bits of f, each factor the square
root of the one before. -/
def exp2Go (num : Nat) : Nat → Nat → Nat → Nat
  | 0, _, acc => acc
  | k + 1, root, acc =>
    let root' := isqrt (root <<< expPrec)
    exp2Go num k root' (if (num >>> k) % 2 == 1 then (acc * root') >>> expPrec else acc)

/-- 2^x (R329): exact at the integers, elsewhere irrational and approximated far below any rounding boundary (log 8). -/
def valExp2 : Val → Val
  | .nan => .nan
  | .inf s => if s then .fin false 0 0 else .inf false
  | .fin s n e =>
    if n == 0 then .fin false 1 0
    else if (Nat.log2 n : Int) + e ≥ 14 then (if s then .near false 1 (-8192) else .fin false 1 8192)
    else if e ≥ 0 then
      let k : Int := ((n <<< e.toNat : Nat) : Int)
      .fin false 1 (if s then -k else k)
    else
      let k := (-e).toNat
      let x : Int := if s then -(n : Int) else n
      let ip := x / ((2 ^ k : Nat) : Int)
      let fr := (x % ((2 ^ k : Nat) : Int)).toNat
      if fr == 0 then .fin false 1 ip
      else .near false (exp2Go fr k (2 ^ (expPrec + 1)) (2 ^ expPrec)) (ip - expPrec)
  | v => v

/-- Bits of log2 m for m in [1, 2), by repeated squaring at 640 bits. -/
def log2Go : Nat → Nat → Nat → Nat
  | 0, _, acc => acc
  | k + 1, y, acc =>
    let y2 := (y * y) >>> 640
    if y2 ≥ 2 ^ 641 then log2Go k (y2 / 2) (2 * acc + 1) else log2Go k y2 (2 * acc)

/-- log2 x (R329): exact at the powers of two, elsewhere irrational (log 8). -/
def valLog2 : Val → Val
  | .nan => .nan
  | .inf s => if s then .nan else .inf false
  | .fin s n e =>
    if n == 0 then .inf true
    else if s then .nan
    else
      let l := Nat.log2 n
      if n == 2 ^ l then .ofInt ((l : Int) + e)
      else
        let fr := log2Go 192 ((n <<< 640) >>> l) 0
        let t : Int := ((l : Int) + e) * ((2 ^ 192 : Nat) : Int) + fr
        if t < 0 then .near true (t.natAbs - 1) (-192) else .near false t.natAbs (-192)
  | v => v

/-! PX blocks (R193–R196). -/

structure PxBlock where
  e : Nat
  mu : Nat
  fields : List Nat
  deriving DecidableEq, Repr

/-- Element i of a block (R194). -/
def pxElem (m e mu i field : Nat) : Val :=
  if e == 255 then .nan
  else
    let mag := field % 2 ^ m
    let neg := field / 2 ^ m % 2 == 1
    let mup := mu / 2 ^ (i / 2) % 2
    .fin neg mag ((e : Int) - 127 - mup - (m - 1))

/-- The 16 values of a block under the scale that governs it (R194, R195). -/
def pxVals (m e mu : Nat) (fields : List Nat) : List Val :=
  (List.range 16).map (fun i => pxElem m e mu i (fields.getD i 0))

def valMaxMag (a b : Val) : Val := if Val.lt true a.abs b.abs then b.abs else a.abs

/-- x ≤ k for a finite non-negative value and a natural bound. -/
def finLe (n : Nat) (e : Int) (k : Nat) : Bool :=
  if n == 0 then true
  else if e ≥ 0 then decide ((Nat.log2 n : Int) + e < 64) && decide (n <<< e.toNat ≤ k)
  else decide ((Nat.log2 n : Int) + e < 0) || decide (n ≤ k <<< (-e).toNat)

/-- Convert 16 values to a PX block (R196); `rs` gives the stochastic bits, one an element. -/
def pxEncode (m rnd : Nat) (sat : Bool) (rs : List Nat) (xs : List Val) : PxBlock :=
  let nanBlock : PxBlock := ⟨255, 0, List.replicate 16 0⟩
  let isInf (v : Val) : Bool := match v with | .inf _ => true | _ => false
  if xs.any Val.isNan || (!sat && xs.any isInf) then nanBlock
  else
    let f := Ty.fmt .fp32
    let xs := xs.map (fun v => match v with | .inf s => Val.fin s f.maxN f.maxE | v => v)
    let ap (p : Nat) : Val := valMaxMag (xs.getD (2 * p) (.fin false 0 0)) (xs.getD (2 * p + 1) (.fin false 0 0))
    let a := (List.range 8).foldl (fun acc p => valMaxMag acc (ap p)) (.fin false 0 0)
    match a with
    | .fin _ n e =>
      if n == 0 then ⟨0, 0, xs.map (fun v => if v.isNeg then 2 ^ m else 0)⟩
      else
        let l := Nat.log2 n
        let ea := (l : Int) + e
        let et := ea + 127 + (if n * 2 ^ (m - 1) > (2 ^ m - 1) * 2 ^ l then 1 else 0)
        if et > 254 && !sat then nanBlock
        else
          let ee : Nat := if et > 254 then 254 else et.toNat
          let mus : List Nat := (List.range 8).map (fun p => match ap p with
            | .fin _ n e => if finLe n (e + 127 + m - ee) (2 ^ m - 1) then 1 else 0
            | _ => 0)
          let fs := (List.range 16).map (fun i =>
            let v := xs.getD i (.fin false 0 0)
            let mu : Int := (mus.getD (i / 2) 0 : Nat)
            let q := (roundToInt rnd (rs.getD i 0) (v.scale (127 + mu + m - 1 - ee))).natAbs
            min q (2 ^ m - 1) + (if v.isNeg then 2 ^ m else 0))
          ⟨ee, packNat 1 mus, fs⟩
    | _ => nanBlock

/-- A block as one bit string (R193). -/
def PxBlock.toNat (m : Nat) (b : PxBlock) : Nat := b.e + 256 * (b.mu + 256 * packNat (m + 1) b.fields)

/-- Read a block's own bytes (R193). -/
def PxBlock.ofNat (m v : Nat) : PxBlock := ⟨v % 256, v / 256 % 256, natLanes (m + 1) (v / 65536) 16⟩

end Sys2Proof.Machine
end

