-- ==== Sys2Proof/Machine/Convert.lean ====
section
/-! DEFINITION. What a junction and a landing do to the elements of a record: conversion (R125, R126, R192), PX streams (R195,
R196), NARROW and MERGE (R137), record lengths (R126). -/

namespace Sys2Proof.Machine

/-- Apply a rounding function to elements in order; under SR (code 4) the LFSR steps once for each (R189). -/
def roundEach {α β : Type} (rnd : Nat) (g : Nat → α → β) : Word32 → List α → List β × Word32
  | l, [] => ([], l)
  | l, x :: xs =>
    let l := if rnd == 4 then lfsrStep l else l
    let y := roundEach rnd g l xs
    (g (bitsN l 0 16) x :: y.1, y.2)

/-- Cut a list into pieces of n. -/
def chunksGo {α : Type} (n : Nat) : Nat → List α → List (List α)
  | 0, _ => []
  | _, [] => []
  | k + 1, x :: xs => (x :: xs).take n :: chunksGo n k ((x :: xs).drop n)

def chunks {α : Type} (n : Nat) (l : List α) : List (List α) := chunksGo n l.length l

/-- DATA tokens that 16 blocks of a PX format take (R195). -/
def pxData (t : Ty) : Nat := (16 * t.width + 511) / 512

/-- One bit string of tokens' payloads. -/
def joinPay (ts : List Line) : Nat := packNat 512 (ts.map BitVec.toNat)

/-- Values of the blocks in DATA tokens of a PX format, a group of at most 16 blocks at a time (R195): the SCALE token governs the first
16, the others have their own bytes (R194). -/
def pxGroup (t : Ty) (scale : Option Line) (data : List Line) : List Val :=
  ((chunks (pxData t) data).zipIdx).flatMap (fun g =>
    let v := joinPay g.1
    (List.range (min 16 (512 * g.1.length / t.width))).flatMap (fun r =>
      let b := PxBlock.ofNat t.pxM (v / 2 ^ (t.width * r) % 2 ^ t.width)
      match (if g.2 = 0 then scale else none) with
      | some s => pxVals t.pxM (bitsN s (16 * r) 8) (bitsN s (16 * r + 8) 8) b.fields
      | none => pxVals t.pxM b.e b.mu b.fields))

/-- Split a PX record at its SCALE tokens. -/
def pxSplit : List Tok → List (Option Line × List Line)
  | [] => []
  | t :: ts =>
    let rest := pxSplit ts
    if Sb.kind t.side == 1 then
      match rest with
      | (none, d) :: more => (some t.pay, d) :: more
      | _ => (some t.pay, []) :: rest
    else match rest with
      | (none, d) :: more => (none, t.pay :: d) :: more
      | _ => (none, [t.pay]) :: rest

/-- The element values of a record in the producer's format, in order (R126). -/
def recordVals (t : Ty) (toks : List Tok) : List Val :=
  if t.isPx then (pxSplit toks).flatMap (fun g => pxGroup t g.1 g.2)
  else toks.flatMap (fun k => (lanesOf t k.pay).map (decodeLane t))

/-- Encode values as PX: for each group of 16 blocks a SCALE token, then its DATA tokens (R195, R196). -/
def pxTokens (t : Ty) (rnd : Nat) (lfsr : Word32) (vals : List Val) : List (Bool × Line) × Word32 :=
  let x := roundEach rnd (fun r (v : Val) => (r, v)) lfsr vals
  let blocks := (chunks 16 x.1).map (fun b => pxEncode t.pxM rnd true (b.map (·.1)) (b.map (·.2)))
  let toks := (chunks 16 blocks).flatMap (fun g =>
    let scale : Line := BitVec.ofNat 512 (packNat 16 (g.map (fun b => b.e + 256 * b.mu)))
    let data := packNat t.width (g.map (PxBlock.toNat t.pxM))
    (true, scale) :: (List.range ((g.length * t.width + 511) / 512)).map (fun k => (false, BitVec.ofNat 512 (data / 2 ^ (512 * k)))))
  (toks, x.2)

/-- The payloads of a converted record, each with whether it is a SCALE token. -/
def convertVals (src dst : Ty) (rnd : Nat) (shift : Int) (lfsr : Word32) (vals : List Val) : List (Bool × Line) × Word32 :=
  let vals := vals.map (Val.scale shift)
  if dst.isPx then pxTokens dst rnd lfsr vals
  else
    let x := roundEach rnd (fun r v => encodeLane src dst rnd true r v) lfsr vals
    ((chunks dst.lanes x.1).map (fun cs => (false, ofLanes dst.width cs)), x.2)

/-- Sideband of token k of n of a converted record: weight, L, G, C and N of the record's first token (R126, R230). -/
def recordSide (first : BitVec 24) (scale : Bool) (k n : Nat) : BitVec 24 :=
  Sb.mk (if scale then 1 else 0) (k == 0) (k + 1 == n) (Sb.l first) (Sb.g first) (Sb.c first) (Sb.n first) (Sb.w first)

/-- The junction (R125, R126). -/
def junction (pf cf : Nat) (rnd : Nat) (shift : Int) (lfsr : Word32) (toks : List Tok) : List Tok × Word32 :=
  match Ty.ofCode pf, Ty.ofCode cf with
  | some a, some b =>
    if a == b then (toks, lfsr)
    else
      let x := convertVals a b rnd shift lfsr (recordVals a toks)
      let first := match toks with | t :: _ => t.side | [] => 0
      ((x.1.zip (List.range x.1.length)).map (fun p => ⟨p.1.2, recordSide first p.1.1 p.2 x.1.length⟩), x.2)
  | _, _ => (toks, lfsr)

/-- Whether R125 admits a junction pair with its shift. -/
def pairOk (pf cf : Nat) (shift : Int) : Bool :=
  match Ty.ofCode pf, Ty.ofCode cf with
  | some a, some b =>
    if a == b then shift == 0
    else (b.isFloat && (a.isFloat || a.isInt)) || (b.isPx && a.isFloat) || (a.isPx && (b == .fp32 || b == .bf16))
  | _, _ => false

/-- Elements of a record of n tokens (R126); a PX record is taken to hold a SCALE token before each group. -/
def elemsOf (t : Ty) (n : Nat) : Nat :=
  if t.isPx then
    let d := pxData t
    let groups := n / (d + 1)
    let rest := n % (d + 1)
    groups * 256 + (if rest ≤ 1 then 0 else 16 * min 16 (512 * (rest - 1) / t.width))
  else n * t.lanes

/-- Consumer record length (R126). -/
def lcOf (pf cf prl : Nat) : Nat :=
  match Ty.ofCode pf, Ty.ofCode cf with
  | some a, some b =>
    if a == b then prl
    else
      let n := elemsOf a prl
      if b.isPx then
        let blocks := n / 16
        let full := blocks / 16
        let rest := blocks % 16
        full * (1 + pxData b) + (if rest == 0 then 0 else 1 + (rest * b.width + 511) / 512)
      else (n * b.width + 511) / 512
  | _, _ => prl

/-- Format of a branch's records at its buffer: the consumer's; at an egress copy, before any junction, the producer's (R126, R142). -/
def Branch.fmt (h : BitVec 128) (b : Branch) : Nat := if b.remote then Head.pfmt h else Br.cfmt b.word

/-- Consumer record length of a branch. -/
def Branch.lc (h : BitVec 128) (b : Branch) : Nat := max 1 (lcOf (Head.pfmt h) (b.fmt h) (Head.prl h))

/-- Set WEIGHT and C on every token of a record, and N when given (R140, R230). -/
def reweigh (toks : List Tok) (w : Nat) (c : Bool) (n : Option Bool) : List Tok :=
  toks.map (fun t =>
    let v := t.side
    { t with side := Sb.mk (Sb.kind v) (Sb.h v) (Sb.t v) (Sb.l v) (Sb.g v) c (n.getD (Sb.n v)) w })

/-- Weights saturate at 65,535 (R140): the weight, and whether it did. -/
def satW (w : Nat) : Nat × Bool := if 65535 < w then (65535, true) else (w, false)

/-- NARROW (R137): each element to NFMT with RND and SAT = 1, and back. -/
def narrowToks (cf nf rnd : Nat) (lfsr : Word32) (toks : List Tok) : List Tok × Word32 :=
  match Ty.ofCode cf, Ty.ofCode nf with
  | some a, some b =>
    let codes := toks.flatMap (fun k => lanesOf a k.pay)
    let x := roundEach rnd (fun r c => encodeLane b a 0 false 0 (decodeLane b (encodeLane a b rnd true r (decodeLane a c)))) lfsr codes
    let pays := (chunks a.lanes x.1).map (ofLanes a.width)
    ((toks.zip pays).map (fun p => { p.1 with pay := p.2 }), x.2)
  | _, _ => (toks, lfsr)

/-- The tokens a buffered record is stored in: a narrowed record packs its NFMT elements (R138). -/
def Item.units (cf : Nat) (i : Item) : List Line :=
  match i.narrow, Ty.ofCode cf with
  | some nf, some a =>
    match Ty.ofCode nf with
    | some b =>
      let codes := i.toks.flatMap (fun k => (lanesOf a k.pay).map (fun c => encodeLane a b 1 true 0 (decodeLane a c)))
      let ls := (chunks b.lanes codes).map (ofLanes b.width)
      (ls ++ List.replicate ((i.toks.length + 1) / 2 - ls.length) 0).take ((i.toks.length + 1) / 2)
    | none => i.toks.map (·.pay)
  | _, _ => i.toks.map (·.pay)

/-- Put a stored token back. -/
def Item.setUnit (cf : Nat) (i : Item) (n : Nat) (v : Line) : Item :=
  match i.narrow, Ty.ofCode cf with
  | some nf, some a =>
    match Ty.ofCode nf with
    | some b =>
      let us := (i.units cf).set n v
      let codes := us.flatMap (fun u => (lanesOf b u).map (fun c => encodeLane b a 0 false 0 (decodeLane b c)))
      let pays := (chunks a.lanes codes).map (ofLanes a.width)
      { i with toks := (i.toks.zip pays).map (fun p => { p.1 with pay := p.2 }) }
    | none => i
  | _, _ => { i with toks := (i.toks.zip (List.range i.toks.length)).map (fun p => if p.2 == n then { p.1 with pay := v } else p.1) }

/-- MERGE of one element (R137). -/
def mergeLane (t : Ty) (mop rnd r : Nat) (a b : Nat) : Nat :=
  let x := decodeLane t a
  let y := decodeLane t b
  match mop with
  | 0 => if t.isInt then narrowInt t true (intLane t a + intLane t b) else roundFloat t rnd true r (Val.add x y)
  | 1 => encodeLane t t 0 false 0 (valMax false x y)
  | 2 => encodeLane t t 0 false 0 (valMin false x y)
  | _ => b

/-- MERGE of record x into record r, payloads alone (R137): ADD alone rounds. -/
def mergeToks (cf mop rnd : Nat) (lfsr : Word32) (r x : List Tok) : List Tok × Word32 :=
  match Ty.ofCode cf with
  | some t =>
    let pairs := (r.flatMap (fun k => lanesOf t k.pay)).zip (x.flatMap (fun k => lanesOf t k.pay))
    let rr := if mop == 0 && t.isFloat then rnd else 0
    let y := roundEach rr (fun r (p : Nat × Nat) => mergeLane t mop rnd r p.1 p.2) lfsr pairs
    let pays := (chunks t.lanes y.1).map (ofLanes t.width)
    ((r.zip pays).map (fun p => { p.1 with pay := p.2 }), y.2)
  | none => (r, lfsr)

/-- Whether a branch word satisfies R134 (check 13): the pair is checked by R125 elsewhere. -/
def branchOk (w : BitVec 256) : Bool :=
  let d := Br.depth w
  let cf := Br.cfmt w
  let nf := Br.nfmt w
  decide (Br.rnd w ≤ 4) && decide (2 ≤ d) && Br.pol w != 7
  && (Br.pol w != 4 || (decide (1 ≤ Br.k w) && decide (Br.k w ≤ 8)))
  && (Br.pol w != 6 || ((cf == 0 && decide (1 ≤ nf) && decide (nf ≤ 4)) || ((cf == 1 || cf == 2) && (nf == 3 || nf == 4))))
  && (Br.pol w != 5 || !(decide (5 ≤ cf) && decide (cf ≤ 7)))
  && (Br.pol w != 1 || (Br.squota w != 0 && (Br.sec w == 0 || Br.sec w == 2 || Br.sec w == 3 || Br.sec w == 5)
      && (Br.sec w != 5 || !(decide (5 ≤ cf) && decide (cf ≤ 7)))))
  && decide (1 ≤ Br.engm w) && decide (Br.engm w ≤ d) && decide (Br.relm w < Br.engm w)
  && (!Br.cen w || (decide (1 ≤ Br.setpt w) && decide (Br.setpt w < Br.engm w)))
  && bitsN w 64 57 == 0 && bitsN (Br.sbase w) 0 6 == 0 && cf != 15

end Sys2Proof.Machine
end

