-- ==== Sys2Proof/Machine/Rings.lean ====
section
/-! DEFINITION. Gaps (R141) and landing rings (R41, R42): occupancy, policy, gap entries, PRODUCED. -/

namespace Sys2Proof.Machine

/-! ### Gaps -/

/-- Most positions a gap holds (R141). -/
def gapMax : Nat := 2 ^ 32 - 1

/-- Weight of the first m positions of a gap (R145). -/
def share (total cnt m : Nat) : Nat := if m = 0 then 0 else total / cnt * m + total % cnt

/-- Join a gap to a list whose last gap is open: contiguous positions join it up to gapMax, dividing the newcomer; anything else
opens a new gap (R141). -/
def joinGap (open' : Gap) (g : Gap) : List Gap × Gap :=
  if open'.cnt == 0 then ([], g)
  else if (open'.first + open'.cnt) % 2 ^ 48 != g.first then ([open'], g)
  else
    let m := min g.cnt (gapMax - open'.cnt)
    let s := if m == g.cnt then g.wt else share g.wt g.cnt m
    let c := if m == g.cnt then g.cwt else share g.cwt g.cnt m
    let o : Gap := { open' with cnt := open'.cnt + m, wt := sat64 (open'.wt + s), cwt := sat64 (open'.cwt + c) }
    if m == g.cnt then ([], o)
    else ([o], { first := (g.first + m) % 2 ^ 48, cnt := g.cnt - m, wt := g.wt - s, cwt := g.cwt - c })

/-- Coalesce a list of gaps that stand back to back; one of a weight alone (R27) stands by itself. -/
def coalesce (gs : List Gap) : List Gap :=
  let x := gs.foldl (fun (acc : List Gap × Gap) g =>
    if g.cnt == 0 then (if g.wt == 0 then acc else (acc.1 ++ (if acc.2.cnt == 0 then [] else [acc.2]) ++ [g], {})) else
    let y := joinGap acc.2 g
    (acc.1 ++ y.1, y.2)) ([], {})
  if x.2.cnt == 0 then x.1 else x.1 ++ [x.2]

/-- A GAP marker (R141). -/
def gapTok (g : Gap) : Tok :=
  markTok 1 ((if g.cwt == g.wt then 16 else 0) + g.cnt % 2 ^ 32 * 2 ^ 32 + g.wt % 2 ^ 64 * 2 ^ 64 + g.first % 2 ^ 48 * 2 ^ 144 + g.cwt % 2 ^ 64 * 2 ^ 192)

/-- The gap a GAP marker carries. -/
def gapOf (p : Line) : Gap := { first := bitsN p 144 48, cnt := bitsN p 32 32, wt := bitsN p 64 64, cwt := bitsN p 192 64 }

/-! ### Landing rings -/

/-- The space a port's ring lies in (R39): the context of its ATAG, or physical memory for ATAG 0. -/
def portSpace (s : State) (d : BitVec 256) : Option Space :=
  if Pd.atag d = 0 then some { svm := true }
  else (s.teams.vals.find? (fun t => t.atag == Pd.atag d && (t.state == .loading || t.state == .running || t.state == .saving || t.state == .saved || t.state == .retiring))).map
    (fun t => t.space false)

/-- Home keys of the counter pair: PRODUCED and CONSUMED (R41). -/
def counterKeys (s : State) (c : Space) (d : BitVec 256) (k : Acc) : Option (Nat × Nat) :=
  match translateNow s c (Pd.caddr d) k, translateNow s c (Pd.caddr d + 8) k with
  | .ok p _, .ok q _ => some (p, q)
  | _, _ => none

/-- Home keys of a slot's payload and tag (R41). -/
def slotKeys (s : State) (c : Space) (d : BitVec 256) (n : Nat) (k : Acc) : Option (Nat × Nat) :=
  let i := n % Pd.slots d
  match translateNow s c (Pd.rbase d + BitVec.ofNat 64 (64 * i)) k,
        translateNow s c (Pd.rbase d + BitVec.ofNat 64 (64 * Pd.slots d + 8 * i)) k with
  | .ok p _, .ok q _ => some (p, q)
  | _, _ => none

/-- The descriptor that the messages in a ring were accepted under: a DISABLED port finishes them under the old one (R40). -/
def IPort.live (ip : IPort) : BitVec 256 := if Pd.mode ip.desc = 0 then ip.was else ip.desc

/-- Occupancy of a ring, or none when its counters cannot be read (R41). -/
def occOf (s : State) (d : BitVec 256) : Option Nat :=
  match portSpace s d with
  | some c => match counterKeys s c d .read with
    | some k =>
      let diff := (readWord s k.1 - readWord s k.2).toInt
      some (if diff < 0 then 0 else min diff.toNat (Pd.slots d))
    | none => none
  | none => none

def ringOcc (s : State) (p : Nat) : Option Nat := occOf s (getIPort s p).desc

/-- The accesses that write entry n of a ring: its payload, its tag, PRODUCED (R41). -/
def entryAccess (d : BitVec 256) (n : Nat) : List (Word × Nat) :=
  let i := n % Pd.slots d
  [(Pd.rbase d + BitVec.ofNat 64 (64 * i), 64), (Pd.rbase d + BitVec.ofNat 64 (64 * Pd.slots d + 8 * i), 8), (Pd.caddr d, 8)]

/-- What taking entry n does beside its effect: the payload, the tag and PRODUCED are read, CONSUMED is written, through the TLBs (R156, R160). -/
def ringTaken (s : State) (c : Space) (d : BitVec 256) (n : Nat) : State :=
  let as : List (Word × Nat × Acc) := (entryAccess d n).map (fun a => (a.1, a.2, .read)) ++ [(Pd.caddr d + 8, 8, .write)]
  as.foldl (fun s a => match engineXl s c a.1 a.2.1 a.2.2 with
    | .ok ps => accountPieces (enginePrep s c a.1 a.2.1 a.2.2) ps
    | .error _ => s) s

/-- An event of an ingress port goes to the mailbox and raises an MSI-X vector (R34; log 54). -/
def portEvent (s : State) (name : String) (data : List Word) : State := emit (emit s (.event name data)) (.msix 1)

/-- Whether the next k entries of a ring can be written. -/
def ringReady (s : State) (p k : Nat) : Bool :=
  let ip := getIPort s p
  match portSpace s ip.desc with
  | some c => (List.range k).all (fun j => (entryAccess ip.desc (ip.entry + j)).all (fun a =>
      match engineXl s c a.1 a.2 .write with | .ok _ => true | .error _ => false))
  | none => false

/-- Write one entry: payload and tag, then 1 is added to PRODUCED (R41); the bytes count in their classes (R156). -/
def ringEntry (s : State) (p : Nat) (pay : Line) (side : BitVec 24) : State :=
  let ip := getIPort s p
  match portSpace s ip.desc with
  | some c =>
    let as := entryAccess ip.desc ip.entry
    let s := as.foldl (fun s a => enginePrep s c a.1 a.2 .write) s
    let put (s : State) (a : Word × Nat) (f : State → List Piece → List Byte) : State :=
      match engineXl s c a.1 a.2 .write with
      | .ok ps => writePieces (accountPieces s ps) ps (f s ps)
      | .error _ => s
    let s := put s (as.getD 0 (0, 0)) (fun _ _ => toBytes pay 64)
    let s := put s (as.getD 1 (0, 0)) (fun _ _ => toBytes (side.setWidth 64) 8)
    let s := put s (as.getD 2 (0, 0)) (fun s ps => toBytes (BitVec.ofNat 64 (ofBytes (readPieces s ps)) + 1) 8)
    setIPort s p { getIPort s p with entry := ip.entry + 1 }
  | none => s

/-- A message is lost: DROPPED, and the gap that reports it (R42). -/
def ringLose (s : State) (p n : Nat) (sampled : Bool) : State :=
  let ip := getIPort s p
  let g : Gap := { first := n, cnt := 1, wt := 1, cwt := if sampled then 1 else 0 }
  let gs := match ip.gaps.reverse with
    | o :: rest =>
      let x := joinGap o g
      rest.reverse ++ x.1 ++ [x.2]
    | [] => [g]
  setIPort s p { ip with dropped := sat64 (ip.dropped + 1), gaps := gs }

/-- Write a message, its gap entries before it, when there is room for them all and the ring can be written; otherwise it is
lost too (R42). -/
def ringMessage (s : State) (p n occ need : Nat) (pay : Line) (side : BitVec 24) : State :=
  let ip := getIPort s p
  if Pd.slots ip.desc < occ + max need (ip.gaps.length + 1) then ringLose s p n false
  else if !ringReady s p (ip.gaps.length + 1) then portEvent (ringLose s p n false) "RING_FAULT" [BitVec.ofNat 64 p]
  else
    let s := ip.gaps.foldl (fun s g => let t := gapTok g; ringEntry s p t.pay t.side) s
    let s := setIPort s p { getIPort s p with gaps := [] }
    ringEntry s p pay side

/-- CHANNEL_OVERFLOW of a landing ring (R42): to strand 0 of the team's origin region, or to the mailbox for ATAG 0. With 16 causes pending
there, or while the team is saved, it is raised later (R212). -/
def ringOverflow (s : State) (p : Nat) : State :=
  let d := (getIPort s p).desc
  let tval : Word := BitVec.ofNat 64 (2 ^ 63 + p)
  if Pd.atag d = 0 then portEvent s "CHANNEL_OVERFLOW" [tval]
  else match s.teams.vals.find? (fun t => t.atag == Pd.atag d && t.state != .retired && t.state != .killed) with
    | some t => raiseRings (setIPort s p { getIPort s p with owed := some (t.id, { code := 0x10, tval := tval }) })
    | none => s

/-- The weight of a DATA or SCALE sideband replaced (R41); a MARK keeps 0 (R230). -/
def withWeight (v : BitVec 24) (w : Nat) : BitVec 24 := if Sb.isMark v then v else setBits v 0 16 (min w 65535)

/-- A message reaches a ring (R42): it takes the next ARRIVED number; the policy engages at occupancy S and releases at REL·S/16. -/
def ringArrive (s : State) (p : Nat) (pay : Line) (side : BitVec 24) : State :=
  let ip := getIPort s p
  let n := Pd.arrived ip.desc
  let ip := { ip with desc := setBits ip.desc 80 48 (n + 1) }
  let s := setIPort s p ip
  let d := ip.desc
  match ringOcc s p with
  | none => portEvent (ringLose s p n false) "RING_FAULT" [BitVec.ofNat 64 p]
  | some occ =>
    let was := ip.engaged && !decide (occ ≤ Pd.rel d * Pd.slots d / 16)
    let now := was || occ == Pd.slots d
    let s := setIPort s p { ip with engaged := now, phase := if now && !was then 0 else ip.phase }
    let s := if now && !was && Pd.policy d == 0 then ringOverflow s p else s
    if !now then ringMessage s p n occ 1 pay side
    else if Pd.policy d == 4 then
      let ip := getIPort s p
      let g := 2 ^ Pd.k d
      let pos := ip.phase % g
      let lf := if Pd.ph d && pos == 0 then lfsrStep ip.lfsr else ip.lfsr
      let keep := if Pd.ph d then (if pos == 0 then lf.toNat % g else ip.keep) else 0
      let s := setIPort s p { ip with phase := ip.phase + 1, lfsr := lf, keep := keep }
      if pos == keep then ringMessage s p n occ 2 pay (withWeight side g) else ringLose s p n true
    else ringLose s p n false

end Sys2Proof.Machine
end

