-- ==== Sys2Proof/Machine/Channel.lean ====
section
/-! DEFINITION. Channels: emission, arrival, the shed policies, gaps, the spill ring, the extension ring, what a consumer takes
(R118, R126, R132–R149), tokens to sleeping tiles (R98). -/

namespace Sys2Proof.Machine

/-! ### Finding channels -/

def getBranch (s : State) (ch br : Nat) : Branch := (getChan s ch).branches.getD br {}

def updBranch (s : State) (ch br : Nat) (f : Branch → Branch) : State :=
  let c := getChan s ch
  match c.branches[br]? with
  | some b => setChan s ch { c with branches := c.branches.set br (f b) }
  | none => s

def updState (s : State) (ch br : Nat) (f : BState → BState) : State := updBranch s ch br (fun b => { b with st := f b.st })

/-- Region and tile of a branch's consumer; the egress copy of a branch whose consumer is on another module stands at the producer (R142). -/
def consTile (s : State) (c : Chan) (b : Branch) : Nat × Nat := if b.remote then (c.preg, c.ptile) else teamTile (getTeam s c.team) (Br.ctx b.word) (Br.cty b.word)

def Chan.indexed (c : Chan) : List (Nat × Branch) := (List.range c.branches.length).zip c.branches

/-- The branch that ends at an input endpoint of a tile: channel and branch. -/
def inBranch (s : State) (r tile ep : Nat) : Option (Nat × Nat) :=
  s.chans.cells.findSome? (fun c =>
    if !c.2.live then none
    else (c.2.indexed.find? (fun b => b.2.kind == 0 && !b.2.remote && Br.cep b.2.word == ep && consTile s c.2 b.2 == (r, tile))).map (fun b => (c.1, b.1)))

/-- The branch that ends at a stream port of a region. -/
def inPort (s : State) (r p : Nat) : Option (Nat × Nat) :=
  s.chans.cells.findSome? (fun c =>
    if !c.2.live then none
    else (c.2.indexed.find? (fun b => b.2.kind == 1 && b.2.port.toNat == p && (consTile s c.2 b.2).1 == r)).map (fun b => (c.1, b.1)))

/-- The channel that begins at an output endpoint of a tile. -/
def outChan (s : State) (r tile ep : Nat) : Option Nat :=
  (s.chans.cells.find? (fun c => c.2.live && c.2.prod == 0 && c.2.preg == r && c.2.ptile == tile && Head.pep c.2.head == ep)).map (·.1)

/-- The channel that begins at a stream port of a region. -/
def outPort (s : State) (r p : Nat) : Option Nat :=
  (s.chans.cells.find? (fun c => c.2.live && c.2.prod == 1 && c.2.preg == r && c.2.pport == p)).map (·.1)

/-- Latest ARM of a section, else the START of its context (R211). -/
def tseqSection (s : State) (r tile ctx sec : Nat) : Nat :=
  let x := (getRegion s r).sects.getD (ctx * 16 + sec) {}
  if x.last != 0 then x.last else ((getTile s r tile).ctxs.getD ctx {}).startNum

/-- The context and actor that consume on an endpoint. -/
def consActor (s : State) (r tile ep : Nat) : Option (Nat × Nat) :=
  (getTile s r tile).ctxs.cells.findSome? (fun c =>
    if !bit c.2.ownIn ep then none
    else (c.2.actors.cells.find? (fun a => Hdr.icnt a.2.hdr ep != 0)).map (fun a => (c.1, a.1)))

/-- TSEQ of work that a branch's consumer stands for (R211). -/
def tseqConsumer (s : State) (ch br : Nat) : Nat :=
  let c := getChan s ch
  let b := getBranch s ch br
  let x := consTile s c b
  if b.kind == 1 then (((getRegion s x.1).ports.getD b.port.toNat {}).run.map (·.num)).getD 0
  else match consActor s x.1 x.2 (Br.cep b.word) with
    | some a => tseqSection s x.1 x.2 a.1 (Hdr.sec (((getTile s x.1 x.2).ctxs.getD a.1 {}).actors.getD a.2 {}).hdr)
    | none => 0

/-! ### Ways through the mesh (R110, R125, R126, R358; log 52) -/

/-- Columns and rows between two tiles, each a region and a tile of it (R110). -/
def hops (r t q u : Nat) : Nat :=
  let far (a b : Nat) : Nat := if a ≤ b then b - a else a - b
  far (r % 16 * 16 + t % 16) (q % 16 * 16 + u % 16) + far (r / 16 * 16 + t / 16) (q / 16 * 16 + u / 16)

/-- Where a channel's tokens leave: its producer's tile, or tile (0, 0) for a stream port (R110). -/
def Chan.source (c : Chan) : Option (Nat × Nat) :=
  if c.prod == 0 then some (c.preg, c.ptile) else if c.prod == 1 then some (c.preg, 0) else none

/-- Where a branch's tokens land: its consumer's tile, or tile (0, 0) for a stream port. -/
def landsAt (s : State) (c : Chan) (b : Branch) : Option (Nat × Nat) :=
  if b.remote then none else if b.kind == 0 then some (consTile s c b) else if b.kind == 1 then some ((consTile s c b).1, 0) else none

/-- The way of a record whose last token leaves on clock `left`: one clock for each tile, then the junction, which takes exactly one clock between
equal formats and at most 8 otherwise. -/
def wayOf (s : State) (c : Chan) (b : Branch) (left : Nat) (toks : List Tok) : Flying :=
  match c.source, landsAt s c b with
  | some x, some y =>
    let first := left + hops x.1 x.2 y.1 y.2 + 1
    { toks := toks, left := left, due := first
      last := if regionDie x.1 != regionDie y.1 then none else if Head.pfmt c.head == Br.cfmt b.word then some first else some (first + 7) }
  | _, _ => { toks := toks, left := left, due := left }

/-- A branch in use is sent a record. -/
def Branch.send (s : State) (c : Chan) (left : Nat) (toks : List Tok) (b : Branch) : Branch :=
  if b.kind == 3 then b else { b with flight := b.flight ++ [wayOf s c b left toks] }

/-- The record longest on its way, when all its tokens have left and it may land on a clock, and those behind it. -/
def Branch.arrival (b : Branch) (now : Nat) : Option (Flying × List Flying) :=
  match b.flight with
  | f :: rest => if decide (f.due ≤ now) && decide (b.lastIn ≤ now) && (match f.toks.getLast? with | some t => Sb.t t.side | none => true) then some (f, rest) else none
  | [] => none

/-- Whether a branch has a record that lands on a clock at the latest. -/
def Branch.landsBy (b : Branch) (now : Nat) : Bool :=
  match b.arrival now with
  | some x => (match x.1.last with | some l => decide (l ≤ now) | none => false)
  | none => false

/-! ### The buffer -/

/-- Whether gaps attach to an item: records, END and BARRIER markers (R141). -/
def Item.bears (i : Item) : Bool :=
  !i.mark || (match i.toks with | t :: _ => t.mtype == 2 || t.mtype == 4 | [] => false)

/-- Depth in records: an egress copy has its own (R142), which the image gives in the place of a port. -/
def Branch.depth (b : Branch) : Nat := if b.remote then b.port.toNat else Br.depth b.word

/-- Tokens of the landing buffer in use. -/
def Branch.landed (b : Branch) : Nat :=
  (b.buf.filter (fun i => !i.mark)).foldl (fun n i => n + (i.slots.filter (·.isNone)).length) 0

def Branch.usedSlots (b : Branch) : List Nat := b.buf.flatMap (fun i => i.slots.filterMap id)

/-- Whether a branch has an extension ring (R118). -/
def Branch.hasRing (h : BitVec 128) (b : Branch) : Bool := b.kind == 0 && !b.remote && decide (16 < Br.depth b.word * b.lc h)

/-- Home key of a slot of the extension ring. -/
def extKey (s : State) (c : Chan) (b : Branch) (k : Nat) : Nat :=
  let x := consTile s c b
  tileKey s x.1 x.2 (64 * b.ext.toNat + 64 * k)

/-- Address of a byte of a slice in the slice window of a team (R158, R215). -/
def sliceVa (s : State) (team key : Nat) : Word := (getTeam s team).slicebase + BitVec.ofNat 64 (key / 2 ^ 48 * 2 ^ 32 + key % 2 ^ 32)

/-- Slots for n stored tokens: the landing buffer first, then free slots of the ring, in order. -/
def placeSlots (ring landed : Nat) (inRing : Bool) (used : List Nat) : Nat → List (Option Nat)
  | 0 => []
  | n + 1 =>
    if !inRing && decide (landed < 16) then none :: placeSlots ring (landed + 1) inRing used n
    else
      let k := ((List.range ring).find? (fun k => !used.contains k)).getD 0
      some k :: placeSlots ring landed true (k :: used) n

/-- Write an item's tokens into its ring slots. -/
def storeSlots (s : State) (c : Chan) (b : Branch) (i : Item) : State :=
  ((i.units (Br.cfmt b.word)).zip i.slots).foldl (fun s u => match u.2 with
    | some k => writeBytes s (extKey s c b k) (toBytes u.1 64)
    | none => s) s

/-- An item with what its ring slots hold now (R118). -/
def ringItem (s : State) (c : Chan) (b : Branch) (i : Item) : Item :=
  (i.slots.zipIdx).foldl (fun i u => match u.1 with
    | some k => i.setUnit (Br.cfmt b.word) u.2 (BitVec.ofNat 512 (ofBytes (readBytes s (extKey s c b k) 64)))
    | none => i) i

/-- Put an item last in the buffer. -/
def pushItem (s : State) (ch br : Nat) (i : Item) : State :=
  let c := getChan s ch
  let b := getBranch s ch br
  if i.mark || !b.hasRing c.head then updBranch s ch br (fun b => { b with buf := b.buf ++ [{ i with slots := List.replicate i.cost none }] })
  else
    let used := b.usedSlots
    let ring := Br.depth b.word * b.lc c.head - 16
    let i := { i with slots := placeSlots ring b.landed (!used.isEmpty) used i.cost }
    storeSlots (updBranch s ch br (fun b => { b with buf := b.buf ++ [i] })) c b i

/-- Gaps waiting to be attached, the open one last. -/
def BState.allGaps (t : BState) : List Gap := coalesce (t.closed ++ [t.gap])

/-- Take the waiting gaps (R141). -/
def takeGaps (s : State) (ch br : Nat) : List Gap × State :=
  ((getBranch s ch br).st.allGaps, updState s ch br (fun t => { t with closed := [], gap := {} }))

/-- Buffer a record or marker, with the gaps before it (R141). -/
def bufferItem (s : State) (ch br : Nat) (i : Item) : State :=
  if i.bears then
    let x := takeGaps s ch br
    pushItem x.2 ch br { i with gaps := x.1 }
  else pushItem s ch br i

/-- A record is lost: LOST, LOSS, SHMASK, the region counter (R135, R228). -/
def countLoss (s : State) (ch br : Nat) : State :=
  let c := getChan s ch
  let r := (consTile s c (getBranch s ch br)).1
  let s := setChan s ch { c with head := c.head ||| (BitVec.ofNat 128 (2 ^ (66 + br))) }
  let s := updState s ch br (fun t => { t with loss := true, lost := min (t.lost + 1) (2 ^ 24 - 1) })
  bump s r 0 1

/-- A gap joins the open gap at the tail (R141). -/
def joinTail (s : State) (ch br : Nat) (g : Gap) : State :=
  updState s ch br (fun t =>
    let x := joinGap t.gap g
    { t with closed := t.closed ++ x.1, gap := x.2 })

def loseRec (s : State) (ch br seq w cw : Nat) : State :=
  joinTail (countLoss s ch br) ch br { first := seq, cnt := 1, wt := w, cwt := cw }

/-- Whether there is room for a cost (R138). -/
def Branch.room (h : BitVec 128) (b : Branch) (cost : Nat) : Bool := decide (b.toks + cost ≤ b.depth * b.lc h)

/-- Whether a branch is full (R138). -/
def Branch.full (h : BitVec 128) (b : Branch) : Bool := !b.room h (b.lc h)

/-- Buffer a record if there is room, else it is lost with weight w (R137). -/
def fitItem (s : State) (ch br : Nat) (i : Item) (w : Nat) : State :=
  let c := getChan s ch
  if (getBranch s ch br).room c.head i.cost then bufferItem s ch br i else loseRec s ch br i.seq w 0

/-- Records at the head that are in use (R138): those of a firing in progress, or a record a stream port has taken in part. -/
def headInUse (s : State) (ch br : Nat) : Nat :=
  let c := getChan s ch
  let b := getBranch s ch br
  if b.kind == 1 then (if ((getRegion s (consTile s c b).1).ports.getD b.port.toNat {}).place = 0 then 0 else 1)
  else if b.kind == 0 && !b.remote then
    let x := consTile s c b
    (match (getTile s x.1 x.2).fir with | some f => f.used.getD (Br.cep b.word) 0 | none => 0)
  else 0

def itemWeight (i : Item) : Nat := match i.toks with | t :: _ => Sb.w t.side | [] => 0

/-- The gap attached to an evicted record grows by it (R141). -/
def evictedGaps (i : Item) : List Gap := coalesce (i.gaps ++ [{ first := i.seq, cnt := 1, wt := itemWeight i }])

/-- Attach gaps ahead of those of the next item that bears them. -/
def attachNext (gs : List Gap) : List Item → Option (List Item)
  | [] => none
  | i :: rest => if i.bears then some ({ i with gaps := coalesce (gs ++ i.gaps) } :: rest) else (attachNext gs rest).map (i :: ·)

/-- DROP_OLD: the oldest buffered record that is not in use is lost (R137, R141). -/
def evictOld (s : State) (ch br : Nat) : State :=
  let b := getBranch s ch br
  let n := headInUse s ch br
  match (List.range b.buf.length).find? (fun k => decide (n ≤ ((b.buf.take k).filter (fun i => !i.mark)).length) && (match b.buf[k]? with | some i => !i.mark | none => false)) with
  | some k =>
    match b.buf[k]? with
    | some i =>
      let s := countLoss s ch br
      let gs := evictedGaps i
      match attachNext gs (b.buf.drop (k + 1)) with
      | some rest => updBranch s ch br (fun b => { b with buf := b.buf.take k ++ rest })
      | none => updBranch s ch br (fun b => { b with buf := b.buf.take k ++ b.buf.drop (k + 1), st := { b.st with closed := gs ++ b.st.closed } })
    | none => s
  | none => s

def recWeight (toks : List Tok) : Nat := match toks with | t :: _ => Sb.w t.side | [] => 0
def recC (toks : List Tok) : Bool := toks.any (fun t => Sb.c t.side)
def recN (toks : List Tok) : Bool := toks.any (fun t => Sb.n t.side)

/-- CHANNEL_OVERFLOW, once in an engagement (R137): to strand 0 of the consumer's region. With 16 causes pending it is raised when a place
frees (R212). -/
def chanOverflow (s : State) (ch br : Nat) : State :=
  let c := getChan s ch
  let b := getBranch s ch br
  if b.st.ovf then s
  else
    let r := (consTile s c b).1
    let cause : Cause := { code := 0x10, tval := BitVec.ofNat 64 (br * 65536 + ch), tseq := tseqConsumer s ch br }
    let x := pendAsync s (r * 4) cause
    updState x.2 ch br (fun t => { t with ovf := true, owed := if x.1 then t.owed else some (r * 4, cause) })

/-- MERGE record x into record r (R137). -/
def mergeItem (h : BitVec 128) (b : Branch) (r x : Item) : Item × Word32 × Bool :=
  let y := mergeToks (b.fmt h) (Br.mop b.word) (Br.rnd b.word) b.lfsr r.toks x.toks
  let w := satW (recWeight r.toks + recWeight x.toks)
  ({ r with toks := reweigh y.1 w.1 (w.2 || recC r.toks || recC x.toks) (some (recN r.toks || recN x.toks)) }, y.2, w.2)

/-! ### The spill ring (R139) -/

/-- The extension ring's first uncorrectable word that an item stands on (R215): its home key. -/
def ringBad (s : State) (c : Chan) (b : Branch) (i : Item) : Option Nat :=
  (i.slots.filterMap id).findSome? (fun k => let a := extKey s c b k; s.poison.find? (fun p => decide (p < a + 64) && decide (a < p + 8)))

/-- The walks that a slot's access needs (R160). -/
def spillPrep (s : State) (ch br slot : Nat) (k : Acc) : State :=
  let t := getTeam s (getChan s ch).team
  let b := getBranch s ch br
  enginePrep s { t.space t.svm with reg := (consTile s (getChan s ch) b).1 } (Br.sbase b.word + BitVec.ofNat 64 (640 * slot)) 640 k

/-- The ten lines of a slot, translated. -/
def spillPieces (s : State) (ch br slot : Nat) (k : Acc) : Except XFault (List Piece) :=
  let c := getChan s ch
  let t := getTeam s c.team
  engineXl s { t.space t.svm with reg := (consTile s c (getBranch s ch br)).1 } (Br.sbase (getBranch s ch br).word + BitVec.ofNat 64 (640 * slot)) 640 k

def gapWords (gs : List Gap) : List Word :=
  match gs.getLast? with
  | some g => [BitVec.ofNat 64 g.cnt, BitVec.ofNat 64 g.wt, BitVec.ofNat 64 g.first, BitVec.ofNat 64 g.cwt]
  | none => [0, 0, 0, 0]

def padBytes (n : Nat) (l : List Byte) : List Byte := (l ++ List.replicate (n - l.length) 0).take n

/-- The 640 bytes of a slot. -/
def slotBytes (toks : List Tok) (gs : List Gap) : List Byte :=
  padBytes 512 (toks.flatMap (fun t => toBytes t.pay 64)) ++ padBytes 64 (toks.flatMap (fun t => toBytes (t.side.setWidth 64) 8))
    ++ padBytes 64 (wordsBytes (gapWords gs))

/-- A fault or a watch hit on a ring access (R139, R162, R164): SPACT until RESUME, and an entry in the die's fault queue. -/
def parkSpill (s : State) (ch br : Nat) (k : Acc) (f : XFault) : State :=
  let c := getChan s ch
  let b := getBranch s ch br
  if b.park.isSome then s
  else
    let t := getTeam s c.team
    let x := consTile s c b
    let q := if b.lastNum != 0 then b.lastNum else tseqConsumer s ch br
    let e := faultEntry f.va f.code.toNat 4 k.kind t.atag x.1 x.2 br f.mal f.lvl q ch
    let s := updBranch s ch br (fun b => { b with park := some { va := f.va, cause := f.code, kind := BitVec.ofNat 2 k.kind, num := q, mal := f.mal, lvl := f.lvl }
                                                  st := { b.st with spact := true } })
    postFault s (regionDie x.1) e

/-- A ring access has been made: each line charged as a Carter line for HBM (R104, R139), counted in its class, checked against the filters. -/
def spillTouch (s : State) (ch br : Nat) (k : Acc) (ps : List Piece) : State :=
  let s := chargeTeam (accountPieces s ps) (getChan s ch).team (2 * ps.length)
  match watchPieces s (getTeam s (getChan s ch).team).atag ps k with
  | some va => parkSpill s ch br k { va := va, code := 0x06 }
  | none => s

/-- SPOCC, and SPACT when the ring is below its quota (R139). -/
def recount (s : State) (ch br : Nat) : State :=
  updBranch s ch br (fun b =>
    let n := (b.spill.filter (fun e => !e.mark)).length
    { b with st := { b.st with spocc := n, spact := b.park.isSome || (b.st.spact && decide (Br.squota b.word ≤ n)) } })

/-- Append a record to the ring: false when the access faults. -/
def spillAppend (s : State) (ch br : Nat) (i : Item) : Bool × State :=
  let b := getBranch s ch br
  let slot := (b.st.sphd + b.st.spocc) % max 1 (Br.squota b.word)
  let s := if b.park.isSome then s else spillPrep s ch br slot .write
  if b.park.isSome then (false, s)
  else match spillPieces s ch br slot .write with
    | .error f => (false, parkSpill s ch br .write f)
    | .ok ps =>
      let x := takeGaps s ch br
      let s := writePieces x.2 ps (slotBytes i.toks x.1)
      let s := updBranch s ch br (fun b => { b with spill := b.spill ++ [{ gaps := x.1, seq := i.seq, toks := i.toks }] })
      (true, recount (spillTouch s ch br .write ps) ch br)

/-- Read a slot's tokens back from memory. -/
def spillRead (s : State) (ps : List Piece) (n : Nat) : List Tok :=
  let bs := readPieces s ps
  (List.range n).map (fun j => ⟨BitVec.ofNat 512 (ofBytes ((bs.drop (64 * j)).take 64)), BitVec.ofNat 24 (ofBytes ((bs.drop (512 + 8 * j)).take 3))⟩)

/-- Move the markers at the ring's head into the buffer. -/
def spillMarks (s : State) (ch br : Nat) : Nat → State
  | 0 => s
  | n + 1 =>
    match (getBranch s ch br).spill with
    | e :: rest =>
      if e.mark then
        spillMarks (pushItem (updBranch s ch br (fun b => { b with spill := rest })) ch br
          { gaps := e.gaps, seq := e.seq, toks := e.toks, mark := true, ready := s.clock + 1 }) ch br n
      else s
    | [] => s

/-- Attach gaps ahead of those of the next item of the ring that bears them (R141): its place among the ring's records too. -/
def attachSpilled (gs : List Gap) : Nat → List Spilled → Option (Nat × List Spilled)
  | _, [] => none
  | n, e :: rest =>
    if ({ toks := e.toks, mark := e.mark } : Item).bears then some (n, { e with gaps := coalesce (gs ++ e.gaps) } :: rest)
    else (attachSpilled gs (if e.mark then n else n + 1) rest).map (fun x => (x.1, e :: x.2))

/-- Rewrite the gap that stands with a record in its slot: the slot's last line, whole (R104, R139). -/
def spillGap (s : State) (ch br n : Nat) : State :=
  let b := getBranch s ch br
  let slot := (b.st.sphd + n) % max 1 (Br.squota b.word)
  match (b.spill.filter (fun e => !e.mark))[n]? with
  | none => s
  | some e =>
    let s := spillPrep s ch br slot .write
    match spillPieces s ch br slot .write with
    | .error f => parkSpill s ch br .write f
    | .ok ps => spillTouch (writePieces s (ps.drop 9) (padBytes 64 (wordsBytes (gapWords e.gaps)))) ch br .write (ps.drop 9)

/-- The ring's head record is lost (R139, R141): the gap that takes its place goes to the next record, END or BARRIER marker behind it, in
the slot of a record too, or waits for the next to come. -/
def spillEvict (s : State) (ch br : Nat) (h : Spilled) (rest : List Spilled) : State :=
  let s := countLoss s ch br
  let gs := coalesce (h.gaps ++ [{ first := h.seq, cnt := 1, wt := recWeight h.toks }])
  let next (t : BState) (w : BitVec 256) : BState := { t with sphd := (t.sphd + 1) % max 1 (Br.squota w), spocc := t.spocc - 1 }
  match attachSpilled gs 0 rest with
  | some x =>
    let s := updBranch s ch br (fun b => { b with spill := x.2, st := next b.st b.word })
    if ((x.2.filter (fun e => !e.mark))[x.1]?).any (fun e => e.gaps.head?.any (fun g => g.first == (gs.headD {}).first)) then spillGap s ch br x.1 else s
  | none => updBranch s ch br (fun b => { b with spill := rest, st := { next b.st b.word with closed := gs ++ b.st.closed } })

/-- The secondary policy acts on the ring as if it were the buffer (R139). -/
def spillSecondary (s : State) (ch br : Nat) (x : Item) : State :=
  let b := getBranch s ch br
  let w := itemWeight x
  match Br.sec b.word with
  | 3 =>
    let s := spillMarks s ch br b.spill.length
    match (getBranch s ch br).spill with
    | h :: rest =>
      if b.park.isSome then loseRec s ch br x.seq w 0
      else
        let y := spillAppend (spillEvict s ch br h rest) ch br x
        if y.1 then y.2 else loseRec y.2 ch br x.seq w 0
    | [] => loseRec s ch br x.seq w 0
  | 5 =>
    match b.spill.getLast? with
    | some e =>
      if e.mark || b.park.isSome then loseRec s ch br x.seq w 0
      else
        let slot := (b.st.sphd + b.st.spocc - 1) % max 1 (Br.squota b.word)
        let s := spillPrep (spillPrep s ch br slot .read) ch br slot .write
        match spillPieces s ch br slot .read, spillPieces s ch br slot .write with
        | .ok qs, .ok ps =>
          match badAt s qs with
          | some va => engineCheck s (getChan s ch).team va
          | none =>
            let m := mergeItem (getChan s ch).head b { seq := e.seq, toks := spillRead s qs e.toks.length } x
            let s := writePieces (spillTouch s ch br .read qs) ps (slotBytes m.1.toks e.gaps)
            let s := updBranch s ch br (fun b => { b with lfsr := m.2.1, spill := b.spill.dropLast ++ [{ e with toks := m.1.toks }]
                                                          st := { b.st with cseen := b.st.cseen || m.2.2 } })
            loseRec (spillTouch s ch br .write ps) ch br x.seq w w
        | .error f, _ => loseRec (parkSpill s ch br .read f) ch br x.seq w 0
        | _, .error f => loseRec (parkSpill s ch br .write f) ch br x.seq w 0
    | none => loseRec s ch br x.seq w 0
  | 0 => loseRec (chanOverflow s ch br) ch br x.seq w 0
  | _ => loseRec s ch br x.seq w 0

/-- A record goes to the spill ring (R139). -/
def toSpill (s : State) (ch br : Nat) (x : Item) : State :=
  let b := getBranch s ch br
  if decide (Br.squota b.word ≤ b.st.spocc) then
    spillSecondary (updState s ch br (fun t => { t with spq := true, spact := true })) ch br x
  else
    let y := spillAppend s ch br x
    if y.1 then y.2 else spillSecondary y.2 ch br x

/-! ### Arrival -/

/-- Whether NARROW narrows a branch's records: an egress copy's may be of a format that no NFMT is narrower than (R137, R142; log 52). -/
def Branch.narrows (h : BitVec 128) (b : Branch) : Bool :=
  !b.remote || (match Ty.ofCode (b.fmt h), Ty.ofCode (Br.nfmt b.word) with | some x, some n => x.isFloat && decide (n.width < x.width) | _, _ => false)

/-- Whether MERGE combines a branch's records: those of a PX format it does not (R137). -/
def Branch.merges (h : BitVec 128) (b : Branch) : Bool := match Ty.ofCode (b.fmt h) with | some t => !t.isPx | none => false

/-- NARROW (R137). -/
def narrowItem (s : State) (ch br : Nat) (x : Item) : State × Item :=
  let b := getBranch s ch br
  let y := narrowToks (b.fmt (getChan s ch).head) (Br.nfmt b.word) (Br.rnd b.word) b.lfsr x.toks
  let toks := reweigh y.1 (itemWeight x) (recC x.toks) (some true)
  (updBranch s ch br (fun b => { b with lfsr := y.2, st := { b.st with nseen := true } }), { x with toks := toks, narrow := some (Br.nfmt b.word) })

/-- The policy acts on an arriving record (R137). -/
def shedPolicy (s : State) (ch br : Nat) (x : Item) : State :=
  let b := getBranch s ch br
  let w := itemWeight x
  match Br.pol b.word with
  | 0 => fitItem (chanOverflow s ch br) ch br x w
  | 1 => toSpill s ch br x
  | 2 => loseRec s ch br x.seq w 0
  | 3 => fitItem (evictOld s ch br) ch br x w
  | 4 =>
    let g := 2 ^ Br.k b.word
    let pos := b.st.sph % g
    let lf := if Br.ph b.word && pos == 0 then lfsrStep b.lfsr else b.lfsr
    let keep := if Br.ph b.word then (if pos == 0 then lf.toNat % g else b.st.keep) else 0
    let s := updBranch s ch br (fun b => { b with lfsr := lf, st := { b.st with sph := (b.st.sph + 1) % 256, keep := keep } })
    if pos == keep then
      let v := satW (w * g)
      let s := updState s ch br (fun t => { t with cseen := t.cseen || v.2 })
      fitItem s ch br { x with toks := reweigh x.toks v.1 (v.2 || recC x.toks) none } v.1
    else loseRec s ch br x.seq w w
  | 5 =>
    match b.buf.getLast? with
    | some r =>
      if r.mark || decide (b.occ ≤ headInUse s ch br) || !b.merges (getChan s ch).head then fitItem s ch br x w
      else match ringBad s (getChan s ch) b r with
      | some key => engineCheck s (getChan s ch).team (sliceVa s (getChan s ch).team key)
      | none =>
        let m := mergeItem (getChan s ch).head b (ringItem s (getChan s ch) b r) x
        let s := updBranch s ch br (fun b => { b with lfsr := m.2.1, buf := b.buf.dropLast ++ [m.1], st := { b.st with cseen := b.st.cseen || m.2.2 } })
        let s := storeSlots s (getChan s ch) (getBranch s ch br) m.1
        loseRec s ch br x.seq w w
    | none => fitItem s ch br x w
  | 6 =>
    if !b.narrows (getChan s ch).head then fitItem s ch br x w
    else
      let y := narrowItem s ch br x
      fitItem y.1 ch br y.2 w
  | _ => fitItem s ch br x w

/-- A record takes the next position of a branch (R136): SEQ and CUMW advance, and a weight that has saturated is seen (R140). -/
def countRecord (s : State) (ch br : Nat) (toks : List Tok) : State :=
  updState s ch br (fun t => { t with seq := (t.seq + 1) % 2 ^ 48, cumw := sat64 (t.cumw + recWeight toks), cseen := t.cseen || recC toks })

/-- A converted record arrives (R136, R143). -/
def arriveRecord (s : State) (ch br : Nat) (toks : List Tok) : State :=
  let b := getBranch s ch br
  let x : Item := { seq := b.st.seq, cum := b.st.cumw + b.lostWt, toks := toks, ready := s.clock + 1 }
  let s := countRecord s ch br toks
  let b := getBranch s ch br
  let s := updState s ch br (fun t =>
    if t.retest then { t with retest := false, eng := t.eng && !(decide (b.occ ≤ Br.relm b.word) && t.spocc == 0) } else t)
  let b := getBranch s ch br
  let s := if !b.st.eng && decide (Br.engm b.word ≤ b.occ) then updState s ch br (fun t => { t with eng := true, sph := 0, ovf := false }) else s
  let b := getBranch s ch br
  if b.st.spocc != 0 then toSpill s ch br x
  else if !b.st.eng then bufferItem s ch br x
  else shedPolicy s ch br x

/-- A GAP marker from upstream advances SEQ and joins the open gap (R141). CUMW counts records only (R135, R361). -/
def arriveGap (s : State) (ch br : Nat) (g : Gap) : State :=
  let q := (getBranch s ch br).st.seq
  let s := updBranch s ch br (fun b => { b with lostWt := b.lostWt + (g.wt - g.cwt) })
  let s := updState s ch br (fun t => { t with seq := (t.seq + g.cnt) % 2 ^ 48 })
  joinTail s ch br { g with first := q }

/-- Another marker is buffered in sequence, taking no room (R301); behind a spill ring in use it keeps its place there. -/
def arriveMark (s : State) (ch br : Nat) (t : Tok) : State :=
  let b := getBranch s ch br
  let i : Item := { seq := b.st.seq, cum := b.st.cumw + b.lostWt, toks := [t], mark := true, ready := s.clock + 1 }
  if b.spill.isEmpty then bufferItem s ch br i
  else if i.bears then
    let x := takeGaps s ch br
    updBranch x.2 ch br (fun b => { b with spill := b.spill ++ [{ gaps := x.1, seq := i.seq, toks := [t], mark := true }] })
  else updBranch s ch br (fun b => { b with spill := b.spill ++ [{ seq := i.seq, toks := [t], mark := true }] })

/-- A token meets a tile that sleeps (R98). -/
def touchTile (s : State) (ch br : Nat) : State :=
  let c := getChan s ch
  let b := getBranch s ch br
  let x := consTile s c b
  let t := getTile s x.1 x.2
  if b.kind != 0 || b.remote || t.gait.cur != 0 || t.gait.sw.isSome then s
  else if Br.wake b.word then (if t.gait.req == 0 then requestGait s x.1 x.2 1 else s)
  else if t.gait.posted then s
  else updState (setTile s x.1 x.2 { t with gait := { t.gait with posted := true } }) ch br (fun q => { q with stabt := true })

/-- Whether a channel event may take its place in the order of a clock at a branch (R143): 0 a SHED or COUPLE, before every other; 1 a
consumption, 2 a move from the spill ring, 3 an arrival, 4 a Reins tick. -/
def Branch.mayAct (b : Branch) (clock k : Nat) : Bool := decide (b.stage ≤ clock * 5 + k)

/-- A branch has had an event of that place on this clock. -/
def stamp (s : State) (ch br k : Nat) : State := updBranch s ch br (fun b => { b with stage := max b.stage (s.clock * 5 + k) })

/-- A token reaches an ingress port in QUEUE mode as a message (R123); the branch's numbers advance as on every other (R148), and a GAP takes
its number here (R144). -/
def arriveQueue (s : State) (ch br : Nat) (toks : List Tok) : State :=
  let b := getBranch s ch br
  let gap := match toks with | [t] => Sb.isMark t.side && t.mtype == 1 | _ => false
  let toks' := if gap then toks.map (fun t => { t with pay := setBits t.pay 144 48 b.st.seq }) else toks
  let s := toks'.foldl (fun s t => ringArrive s b.port.toNat t.pay t.side) s
  match toks with
  | t :: _ =>
    if gap then updState s ch br (fun q => { q with seq := (q.seq + (gapOf t.pay).cnt) % 2 ^ 48 })
    else if Sb.isMark t.side then s
    else countRecord s ch br toks
  | [] => s

/-- A record or marker arrives at a branch: at an ingress port; at an egress as it was produced (R142); else at a junction, then R136. -/
def arriveToks (s : State) (ch br : Nat) (toks : List Tok) : State :=
  let c := getChan s ch
  let b := getBranch s ch br
  if b.kind == 2 then arriveQueue s ch br toks
  else
    let s := touchTile s ch br
    match toks with
    | [] => s
    | t :: _ =>
      if Sb.isMark t.side && toks.length == 1 then (if t.mtype == 1 then arriveGap s ch br (gapOf t.pay) else arriveMark s ch br t)
      else if b.remote then arriveRecord s ch br toks
      else
        let y := junction (Head.pfmt c.head) (Br.cfmt b.word) (Br.rnd b.word) (Br.shift b.word) b.lfsr toks
        arriveRecord (updBranch s ch br (fun b => { b with lfsr := y.2 })) ch br y.1

/-! ### Emission -/

/-- A record or marker is emitted: every branch will receive it (R148). Its last n tokens leave now, one on a clock, behind those that have left
(R318). -/
def emitLast (s : State) (ch n : Nat) (toks : List Tok) : State :=
  let c := getChan s ch
  let left := max s.clock c.next + n - 1
  setChan s ch { c with next := left + 1, branches := c.branches.map (Branch.send s c left toks) }

/-- All tokens of a record or marker leave now. -/
def emitRecord (s : State) (ch : Nat) (toks : List Tok) : State := emitLast s ch toks.length toks

/-- A token of a record leaves that more tokens follow. -/
def emitPart (s : State) (ch : Nat) : State := let c := getChan s ch; setChan s ch { c with next := max s.clock c.next + 1 }

/-- Split emitted tokens into records and markers, each ended by T. -/
def splitRecords : List Tok → List (List Tok)
  | [] => []
  | t :: ts =>
    if Sb.t t.side then [t] :: splitRecords ts
    else match splitRecords ts with
      | r :: rest => (t :: r) :: rest
      | [] => [[t]]

def emitToks (s : State) (ch : Nat) (toks : List Tok) : State := (splitRecords toks).foldl (fun s r => emitRecord s ch r) s

/-! ### Consumption -/

/-- What a consumer sees at a head. -/
inductive Seen where
  | gap (g : Gap)
  | mark (t : Tok)
  | record (i : Item)
  | nothing

def Item.inRing (i : Item) : Bool := i.slots.any (·.isSome)

def Branch.seen (b : Branch) (now : Nat) : Seen :=
  match b.buf with
  | [] => .nothing
  | i :: _ =>
    if now < i.ready then .nothing
    else match i.gaps with
    | g :: _ => .gap g
    | [] => if i.mark then (match i.toks with | t :: _ => .mark t | [] => .nothing) else if i.inRing then .nothing else .record i

/-- The records at a head that a consumer may take on a clock: up to the first marker or gap, which comes before what stands behind it (R138,
R141), and up to the first that still has a token in the extension ring (R118) or has just arrived (R359). -/
def lead (now : Nat) : List Item → List Item
  | [] => []
  | i :: rest => if !i.gaps.isEmpty || i.mark || i.inRing || decide (now < i.ready) then [] else i :: lead now rest

/-- Tokens of those records. -/
def leadToks (now : Nat) (b : Branch) : List Tok := (lead now b.buf).flatMap (·.toks)

/-- Whether a marker or gap stands right behind those records. -/
def leadEnds (now : Nat) (b : Branch) : Bool :=
  match b.buf.drop (lead now b.buf).length with
  | i :: _ => !i.gaps.isEmpty || i.mark
  | [] => false

/-- Take the gap at the head, or the part of it that is left. -/
def popGap (s : State) (ch br : Nat) (left : Option Gap) : State :=
  stamp (updBranch s ch br (fun b => match b.buf with
    | i :: rest => { b with buf := { i with gaps := left.toList ++ i.gaps.tail } :: rest }
    | [] => b)) ch br 1

/-- Take the marker or record at the head. -/
def popItem (s : State) (ch br : Nat) : State := stamp (updBranch s ch br (fun b => { b with buf := b.buf.tail })) ch br 1

/-- The release check at the end of a consumption (R136); after a SHED it waits for the next arrival (R143). -/
def releaseCheck (s : State) (ch br : Nat) : State :=
  let b := getBranch s ch br
  if b.st.eng && !b.st.retest && decide (b.occ ≤ Br.relm b.word) && b.st.spocc == 0 then updState s ch br (fun t => { t with eng := false }) else s

/-- Take n tokens of whole records from the head of a buffer, none behind a marker or gap. -/
def takeFront : Nat → List Item → List Item
  | _, [] => []
  | n, i :: rest => if n = 0 ∨ i.mark ∨ !i.gaps.isEmpty then i :: rest else takeFront (n - i.toks.length) rest

/-- Take n tokens of whole records from the head, with the release check. -/
def takeRecords (s : State) (ch br n : Nat) : State :=
  releaseCheck (stamp (updBranch s ch br (fun b => { b with buf := takeFront n b.buf })) ch br 1) ch br

/-! ### Steps -/

/-- SHED fields of a branch word: [218:188], SQUOTA and SBASE (R134). -/
def applyShed (w new : BitVec 256) : BitVec 256 :=
  setBits (setBits (setBits w 188 31 (bitsN new 188 31)) 121 24 (bitsN new 121 24)) 0 64 (bitsN new 0 64)

/-- Count a SHED or COUPLE that takes effect, at the landing's region (R228). -/
def countShed (s : State) (c : Chan) (b : Branch) : State := bump s (consTile s c b).1 16 1

/-- Clear the sticky bits, LOST and the SHMASK bit (R135). -/
def clearSticky (s : State) (ch br : Nat) : State :=
  let c := getChan s ch
  let s := setChan s ch { c with head := setBits c.head (66 + br) 1 0 }
  updState s ch br (fun t => { t with lost := 0, lenmis := false, stabt := false, spq := false, ovf := false, nseen := false, cseen := false, loss := false })

/-- A SHED takes effect (R143, R308): the marks are tested again at the next arrival, and SPH restarts. -/
def putShed (s : State) (ch br : Nat) (clr : Bool) (new : BitVec 256) : State :=
  let s := countShed (if clr then clearSticky s ch br else s) (getChan s ch) (getBranch s ch br)
  updBranch s ch br (fun b => { b with word := applyShed b.word new, shed := none, shedTag := 0, shedClr := false, st := { b.st with retest := true, sph := 0 } })

/-- A SHED that waits takes effect at the first clock boundary after the ring has drained, and its command retires (R143, R296). -/
def settleShed (s : State) (ch br : Nat) : State :=
  let b := getBranch s ch br
  match b.shed with
  | some w =>
    if b.st.spocc != 0 then s
    else
      let s := if b.shedTag == 0 then s else retireNumber s (b.shedTag % 128) (b.shedTag / 128)
      putShed s ch br b.shedClr w
  | none => s

/-- The SHEDs that wait, at a clock boundary. -/
def settleSheds (s : State) : State :=
  s.chans.cells.foldl (fun s c => c.2.indexed.foldl (fun s b => if b.2.shed.isSome then settleShed s c.1 b.1 else s) s) s

/-- The ring's head record moves into the buffer when there is room for it (R139). -/
def spillMove (s : State) (ch n : Nat) : State :=
  let s := spillMarks s ch n ((getBranch s ch n).spill.length)
  let c := getChan s ch
  let b := getBranch s ch n
  match b.spill with
  | e :: rest =>
    let i : Item := { gaps := e.gaps, seq := e.seq, toks := e.toks, ready := s.clock + 1 }
    if b.park.isSome || !b.room c.head i.cost then s
    else
    let s := spillPrep (stamp s ch n 2) ch n b.st.sphd .read
    match spillPieces s ch n b.st.sphd .read with
      | .error f => parkSpill s ch n .read f
      | .ok ps =>
        match badAt s ps with
        | some va => engineCheck s c.team va
        | none =>
          let toks := spillRead s ps e.toks.length
          let s := updBranch (spillTouch s ch n .read ps) ch n (fun b => { b with spill := rest, st := { b.st with sphd := (b.st.sphd + 1) % max 1 (Br.squota b.word) } })
          let s := recount (pushItem s ch n { i with toks := toks }) ch n
          spillMarks s ch n rest.length
  | [] => s

/-- The first stored token in the extension ring moves to the landing buffer, with what the slice holds there (R118). -/
def moveUnit (s : State) (c : Chan) (b : Branch) : List Item → List Item
  | [] => []
  | i :: rest =>
    match (List.range i.slots.length).find? (fun k => ((i.slots[k]?).join).isSome) with
    | some k =>
      match (i.slots[k]?).join with
      | some slot =>
        let line : Line := BitVec.ofNat 512 (ofBytes (readBytes s (extKey s c b slot) 64))
        { i.setUnit (Br.cfmt b.word) k line with slots := i.slots.set k none, ready := max i.ready (s.clock + 1) } :: rest
      | none => i :: rest
    | none => i :: moveUnit s c b rest

/-- EXT_RING_MOVE (R118). -/
def execExtRingMove (chid : Chid) (br : BitVec 2) (s : State) : Out' :=
  runStep (fun s =>
    let c := getChan s chid.toNat
    let b := getBranch s chid.toNat br.toNat
    let first := (b.buf.flatMap (fun i => i.slots.filterMap id)).head?
    if b.usedSlots.isEmpty || decide (16 ≤ b.landed) then s
    else match ringBad s c b { slots := [first] } with
    | some key => engineCheck s c.team (sliceVa s c.team key)
    | none => updBranch s chid.toNat br.toNat (fun x => { x with buf := moveUnit s c b b.buf })) s

end Sys2Proof.Machine
end

