-- ==== Sys2Proof/Machine/Image.lean ====
section
/-! DEFINITION. Configuration images as bytes (R254–R256, check 15 of R242) and the loader's checks on firing words (R239–R242,
R316–R354): what stands in one word alone, and what depends on the endpoints of its tile. -/

namespace Sys2Proof.Machine

/-! ### Images -/

/-- A channel record (R256). -/
structure CRec where
  prel : Bool := false
  pkind : Nat := 0
  sport : Nat := 0
  brel : List Bool := []
  ckind : List Nat := []
  ext : List Nat := []
  port : List Nat := []
  head : BitVec 128 := 0
  words : List (BitVec 256) := []
  deriving DecidableEq, Repr

/-- A pattern (R127, R255). -/
structure Pat where
  rects : List Rect := []
  ownIn : Byte := 0
  ownOut : Byte := 0
  hdrs : Assoc (BitVec 128) := {}
  fire : Assoc Word := {}
  /-- firing words of its records, an index given twice counted twice (R255) -/
  nfire : Nat := 0
  consts : Assoc Line := {}
  chans : List CRec := []
  /-- chain word and six level words -/
  chains : Assoc (List Word) := {}
  /-- sixteen section entries: armed, count -/
  sects : Option (List (Bool × Nat)) := none
  seeds : Option (List Word32) := none
  accs : Assoc (List Word32) := {}
  toks : Assoc (List Tok) := {}
  deriving DecidableEq, Repr

structure Img where
  id : Nat := 0
  civ : Nat := 8
  pats : List Pat := []
  deriving DecidableEq, Repr

/-- n little-endian bytes at an offset. -/
def le (d : List Byte) (o n : Nat) : Nat := ofBytes ((d.drop o).take n)

/-- Whether all bytes of a span are zero. -/
def zeros (d : List Byte) (o n : Nat) : Bool := ((d.drop o).take n).all (· == 0)

/-- Whether tokens of an endpoint obey R230: records from H to T, weight, C and N equal on every token, a SCALE token
first, markers alone. -/
def tokensOk : List Tok → Option (BitVec 24) → Bool
  | [], first => first.isNone
  | t :: ts, first =>
    let v := t.side
    if Sb.bad v t.pay then false
    else if Sb.isMark v then first.isNone && tokensOk ts none
    else if Sb.kind v == 1 && first.isSome then false
    else match first with
      | none => Sb.h v && tokensOk ts (if Sb.t v then none else some v)
      | some f => !Sb.h v && bitsN v 0 18 == bitsN f 0 18 && tokensOk ts (if Sb.t v then none else first)

/-- Lengths of record data with a fixed length (R255). -/
def recordLen : Nat → Option Nat
  | 1 => some 8 | 2 => some 8 | 3 => some 16 | 5 => some 64 | 7 => some 56 | 8 => some 128 | 9 => some 36 | 10 => some 2048
  | _ => none

/-- INDEX values of a record type (R255); none: the type is not assigned. -/
def recordIndexes : Nat → Option Nat
  | 1 => some 1 | 2 => some 1 | 3 => some 4 | 4 => some 64 | 5 => some 16 | 6 => some 1 | 7 => some 4 | 8 => some 1
  | 9 => some 1 | 10 => some 4 | 11 => some 8
  | _ => none

/-- Read a channel record's data. Consumer kind 4: an actor on another module, which an egress depth shows (R142, R256; log 52). -/
def readChan (d : List Byte) : CRec :=
  let ctl := le d 0 8
  let head : BitVec 128 := BitVec.ofNat 128 (le d 24 16)
  let bs := List.range (Head.nbr head)
  { prel := ctl % 2 == 1
    pkind := ctl / 2 ^ 8 % 4
    sport := ctl / 2 ^ 10 % 32
    brel := bs.map (fun b => ctl / 2 ^ (4 + b) % 2 == 1)
    ckind := bs.map (fun b => let k := ctl / 2 ^ (16 + 2 * b) % 4; if k == 0 && le d (16 + 2 * b) 2 != 0 then 4 else k)
    ext := bs.map (fun b => le d (8 + 2 * b) 2)
    port := bs.map (fun b => le d (16 + 2 * b) 2)
    head := head
    words := bs.map (fun b => BitVec.ofNat 256 (le d (40 + 32 * b) 32)) }

/-- Whether a channel record keeps to R256: its length, zero bits of the control word, kinds that exist. -/
def chanShape (d : List Byte) : Bool :=
  let c := readChan d
  decide (40 ≤ d.length) && d.length == 40 + 32 * Head.nbr c.head
  && (le d 0 8 &&& 0xFFFFFFFFFF00800E) == 0 && c.pkind != 3 && c.ckind.all (· != 3)
  && (List.range 4).all (fun b => decide (b < Head.nbr c.head) || zeros d (16 + 2 * b) 2)

/-- Whether a record's data keeps to R255. -/
def recordShape (p : Pat) (ty idx : Nat) (x : List Byte) : Bool :=
  match ty with
  | 2 => zeros x 2 6
  | 4 => decide (0 < x.length) && x.length % 8 == 0 && decide (idx + x.length / 8 ≤ 64) && decide (p.nfire + x.length / 8 ≤ 64)
  | 6 => chanShape x
  | 8 => (List.range 16).all (fun k => decide (le x (8 * k) 8 < 2 ^ 33))
  | 11 => decide (0 < x.length) && x.length % 72 == 0
      && (List.range (x.length / 72)).all (fun k => zeros x (72 * k + 67) 5)
      && tokensOk ((List.range (x.length / 72)).map (fun k => ⟨BitVec.ofNat 512 (le x (72 * k) 64), BitVec.ofNat 24 (le x (72 * k + 64) 3)⟩)) none
  | _ => true

/-- Take one record into a pattern. -/
def addRecord (p : Pat) (ty idx : Nat) (x : List Byte) : Pat :=
  match ty with
  | 1 => { p with rects := p.rects ++ [⟨le x 0 2, le x 2 2, le x 4 2, le x 6 2⟩] }
  | 2 => { p with ownIn := BitVec.ofNat 8 (le x 0 1), ownOut := BitVec.ofNat 8 (le x 1 1) }
  | 3 => { p with hdrs := p.hdrs.put idx (BitVec.ofNat 128 (le x 0 16)) }
  | 4 => { p with nfire := p.nfire + x.length / 8, fire := (List.range (x.length / 8)).foldl (fun m k => m.put (idx + k) (BitVec.ofNat 64 (le x (8 * k) 8))) p.fire }
  | 5 => { p with consts := p.consts.put idx (BitVec.ofNat 512 (le x 0 64)) }
  | 6 => { p with chans := p.chans ++ [readChan x] }
  | 7 => { p with chains := p.chains.put idx ((List.range 7).map (fun k => BitVec.ofNat 64 (le x (8 * k) 8))) }
  | 8 => { p with sects := some ((List.range 16).map (fun k => (le x (8 * k + 4) 1 % 2 == 1, le x (8 * k) 4))) }
  | 9 => { p with seeds := some ((List.range 9).map (fun k => BitVec.ofNat 32 (le x (4 * k) 4))) }
  | 10 => { p with accs := p.accs.put idx ((List.range 512).map (fun k => BitVec.ofNat 32 (le x (4 * k) 4))) }
  | _ => { p with toks := p.toks.put idx (p.toks.getD idx [] ++
      (List.range (x.length / 72)).map (fun k => ⟨BitVec.ofNat 512 (le x (72 * k) 64), BitVec.ofNat 24 (le x (72 * k + 64) 3)⟩)) }

/-- Read the records of a body that ends at `stop`; an error names the byte offset of the first bad record (R255, R242). -/
def readBody (d : List Byte) (stop : Nat) : Nat → Nat → Pat → Except Nat Pat
  | 0, _, p => .ok p
  | fuel + 1, o, p =>
    if stop ≤ o then .ok p
    else if stop < o + 8 then .error o
    else
      let ty := le d o 1
      let idx := le d (o + 1) 1
      let len := le d (o + 4) 4
      let next := o + 8 + (len + 7) / 8 * 8
      let x := (d.drop (o + 8)).take len
      let good := (match recordIndexes ty with | some n => decide (idx < n) | none => false)
        && le d (o + 2) 2 == 0 && decide (next ≤ stop) && (recordLen ty).getD len == len && recordShape p ty idx x
      if good then readBody d stop fuel next (addRecord p ty idx x) else .error o

/-- Read one pattern by its directory entry (R254). -/
def readPattern (d : List Byte) (npat p : Nat) : Except Nat Pat :=
  let e := 64 + 16 * p
  let off := le d e 8
  let len := le d (e + 8) 4
  if d.length < e + 16 || off < 64 + 16 * npat || d.length < off + len then .error e
  else if le d (e + 12) 4 != 0 then .error (e + 12)
  else match readBody d (off + len) (len / 8 + 1) off {} with
    | .error k => .error k
    | .ok q => if q.rects.isEmpty then .error off else .ok q

/-- Read an image (R254). An error is check 15 with its byte offset. -/
def readImage (d : List Byte) : Except Nat Img :=
  let npat := le d 16 2
  let civ := le d 18 1
  if d.length < 64 || le d 0 4 != 0x31474643 then .error 0
  else if le d 8 8 != d.length then .error 8
  else if npat < 1 || 4096 < npat then .error 16
  else if civ < 6 || 12 < civ then .error 18
  else match (List.range 45).find? (fun k => !zeros d (19 + k) 1) with
    | some k => .error (19 + k)
    | none => ((List.range npat).mapM (readPattern d npat)).map (fun ps => { id := le d 4 4, civ := civ, pats := ps })

/-! ### Firing words (R239) -/

namespace Fw
def op (w : Word) : Nat := bitsN w 56 8
def dst (w : Word) : Nat := bitsN w 50 6
def a (w : Word) : Nat := bitsN w 44 6
def b (w : Word) : Nat := bitsN w 38 6
def c (w : Word) : Nat := bitsN w 32 6
def ty (w : Word) : Nat := bitsN w 28 4
def rnd (w : Word) : Nat := bitsN w 25 3
def sat (w : Word) : Bool := bit w 24
def mode (w : Word) : Nat := bitsN w 16 8
def imm (w : Word) : Nat := bitsN w 0 16
/-- A field of the mode byte. -/
def m (w : Word) (lo n : Nat) : Nat := bitsN w (16 + lo) n
end Fw

/-- Where an operand field may point (R240 and the entries of 17 and 18). -/
inductive Place where
  /-- not used: must be 0 -/
  | unused
  /-- a source -/
  | src
  /-- a destination: v, o or z -/
  | dst
  /-- an accumulator bank -/
  | bank
  /-- one of the sets of codes named in an entry: v, c, i, o, idx, z -/
  | oneOf (v c i o x z : Bool)
  deriving DecidableEq, Repr

def Place.allows (p : Place) (code : Nat) : Bool :=
  let v := decide (code < 16)
  let c := decide (16 ≤ code) && decide (code < 32)
  let i := decide (32 ≤ code) && decide (code < 40)
  let o := decide (40 ≤ code) && decide (code < 48)
  match p with
  | .unused => code == 0
  | .src => v || c || i || code == 52 || code == 53 || code == 63
  | .dst => v || o || code == 63
  | .bank => decide (48 ≤ code) && decide (code < 52)
  | .oneOf pv pc pi po px pz => (pv && v) || (pc && c) || (pi && i) || (po && o) || (px && code == 52) || (pz && code == 63)

/-- The types a word accepts (R320). -/
inductive TyClass where
  | any | fi | f | i | l | pack | lNot64 | mma | accout | fp32 | zero
  deriving DecidableEq, Repr

def TyClass.allows (k : TyClass) (code : Nat) : Bool :=
  match k, Ty.ofCode code with
  | .any, _ => true
  | .zero, _ => code == 0
  | .fi, some t => t.isF || t.isInt
  | .f, some t => t.isF
  | .i, some t => t.isInt
  | .l, some t => t.isL
  | .pack, some t => t.isInt && t != .int64
  | .lNot64, some t => t.isL && t != .int64
  | .mma, some t => t == .bf16 || t == .fp16 || t == .e4m3 || t == .e5m2 || t.isPx || t == .int8 || t == .w8
  | .accout, some t => t.isL && t != .int64
  | .fp32, some t => t == .fp32
  | _, none => false

/-- What the loader knows of an opcode (R241): its operands, its types, the bits of mode and imm16 its entry assigns. -/
structure WSpec where
  dst : Place := .unused
  a : Place := .unused
  b : Place := .unused
  c : Place := .unused
  ty : TyClass := .any
  mode : Nat := 0
  imm : Nat := 0
  deriving DecidableEq, Repr

/-- The firing words (R241), with the forms that mode selects (R322–R354). -/
def wspec (w : Word) : Option WSpec :=
  let imm := bit w 16
  let b1 : Place := if imm then .unused else .src
  let i1 : Nat := if imm then 0xFFFF else 0
  match Fw.op w with
  | 0x00 | 0x01 => some { ty := .zero }
  | 0x02 => some { ty := .zero, imm := 3 }
  | 0x10 | 0x11 | 0x12 => some { dst := .dst, a := .src, b := .src, ty := .fi }
  | 0x13 | 0x14 | 0x15 => some { dst := .dst, a := .src, b := .src, c := .src, ty := .fi }
  | 0x16 | 0x17 => some { dst := .dst, a := .src, ty := .fi }
  | 0x18 | 0x19 => some { dst := .dst, a := .src, b := .src, ty := .fi, mode := 1 }
  | 0x1A => some { dst := .dst, a := .src, b := .src, c := .src, ty := .fi, mode := 1 }
  | 0x1B => some { dst := .dst, a := .src, b := b1, ty := .f, mode := 1, imm := i1 }
  | 0x1C => some { dst := .dst, a := .src, b := .src, ty := .fi, mode := 7 }
  | 0x1D => some { dst := .dst, a := .src, b := .src, c := .src, ty := .l }
  | 0x1E => some { dst := .dst, a := .src, ty := .fi, mode := 7 }
  | 0x20 | 0x21 | 0x22 => some { dst := .dst, a := .src, b := .src }
  | 0x23 => some { dst := .dst, a := .src }
  | 0x24 | 0x25 | 0x26 => some { dst := .dst, a := .src, b := b1, ty := .i, mode := 1, imm := i1 }
  | 0x30 => some { dst := .dst, a := .src, imm := if decide (32 ≤ Fw.a w) && decide (Fw.a w < 40) then 7 else 0 }
  | 0x31 => some { dst := .dst, ty := .fi, imm := 0xFFFF }
  | 0x32 => some { dst := .dst, a := .src, b := .src, ty := .l }
  | 0x33 => some { dst := .dst, a := .src, ty := .l, imm := 0xFFFF }
  | 0x34 => some { dst := .dst, a := .src, b := b1, ty := .l, mode := 1, imm := i1 }
  | 0x35 => some { dst := .dst, a := .src, b := .src, ty := .pack }
  | 0x36 => some { dst := .dst, a := .src, ty := .pack, mode := 1 }
  | 0x37 => some { dst := .dst, a := .src, ty := .l, mode := 0x3F }
  | 0x38 | 0x39 | 0x3A | 0x3B => some { dst := .dst, a := .src, ty := .f }
  | 0x40 | 0x41 | 0x42 => some { a := b1, mode := 1, imm := i1 }
  | 0x43 => some { dst := .oneOf false false false true false false, a := .src, b := if bit w 17 then .src else .unused, mode := 3 }
  | 0x44 =>
    let ty := Fw.m w 0 4
    some { dst := .oneOf false false false true false false
           a := if ty == 0 then .oneOf false false true false false false else .src
           mode := 0x7F, imm := if ty == 4 then 0xFFFF else 0 }
  | 0x45 => some { dst := .dst, a := .oneOf false false true false false false }
  | 0x46 => some { dst := .oneOf true false false false false false, a := .oneOf false false true false false false
                   b := if bit w 19 then .unused else .src, ty := .f, mode := 0xF, imm := if bit w 19 then 0xFFFF else 0 }
  | 0x47 => some { a := .src, mode := 0x7F, imm := 0xF }
  | 0x48 => some { mode := 3 }
  | 0x49 => some { dst := .dst, mode := 3 }
  | 0x50 => some { dst := .dst, a := .src, imm := 0xFFFF }
  | 0x51 => some { a := .src, b := .src, imm := 0xFFFF }
  | 0x52 => some { dst := .dst, a := .src, ty := .lNot64, imm := 0xFFFF }
  | 0x53 => some { a := .src, b := .src, c := if imm then .src else .unused, ty := .lNot64, mode := 1, imm := 0xFFFF }
  | 0x60 => some { dst := .bank, a := .oneOf true false true false false false, b := .oneOf true true false false true true, ty := .mma
                   mode := 1, imm := 0xFFFF }
  | 0x61 => some { a := .oneOf true true true false true true, b := .src, ty := .mma, mode := 1, imm := 0xFFFF }
  | 0x62 => some { a := .oneOf true true true false false false }
  | 0x63 => some { dst := .oneOf false false false true false false, a := .bank, b := .src, ty := .accout, mode := 0x3F, imm := 0xF }
  | 0x64 => some { dst := .oneOf true false false true false false, a := .bank, b := .src, imm := 0x1F }
  | 0x65 => some { dst := .bank, imm := 0xFFFF }
  | 0x66 => some { a := .oneOf true false false false false false, ty := .fp32, imm := 0x33F }
  | _ => none

/-- Lowest set bit. -/
def lowBit (n : Nat) : Nat := ((List.range 16).find? (fun k => n / 2 ^ k % 2 == 1)).getD 0

/-- Lanes of a word's type. -/
def wLanes (w : Word) : Nat := match Ty.ofCode (Fw.ty w) with | some t => t.lanes | none => 0
def wWidth (w : Word) : Nat := match Ty.ofCode (Fw.ty w) with | some t => t.width | none => 0

/-- Field values that an entry does not assign (check 14): the lowest bit of the field, or none. -/
def wordValues (w : Word) : Option Nat :=
  let t := Ty.ofCode (Fw.ty w)
  let isI := match t with | some t => t.isInt | none => false
  let n := wLanes w
  let im := Fw.imm w
  match Fw.op w with
  | 0x18 | 0x19 | 0x1A => if isI && bit w 16 then some 16 else none
  | 0x1C => if Fw.m w 0 3 == 7 then some 16 else none
  | 0x1E => if Fw.m w 0 2 == 3 then some 16 else if bit w 18 && (isI || Fw.m w 0 2 == 0) then some 18 else none
  | 0x24 | 0x25 | 0x26 => if bit w 16 && decide (wWidth w ≤ im) then some 0 else none
  | 0x31 =>
    if t == some .int8 && decide (0x80 ≤ im) && decide (im < 0xFF80) then some 0
    else if t == some .w8 && decide (0x100 ≤ im) then some 0 else none
  | 0x33 => if n ≤ im then some 0 else none
  | 0x37 =>
    match t, Ty.ofCode (Fw.m w 0 4) with
    | some t, some u =>
      if !u.isL then some 16
      else
        let part := Fw.m w 4 2
        let lim := if t.lanes == u.lanes then 1 else if t.lanes < u.lanes then u.lanes / t.lanes else t.lanes / u.lanes
        if lim ≤ part then some 20 else none
    | _, _ => some 16
  | 0x44 =>
    let ty := Fw.m w 0 4
    let sc := Fw.m w 4 3
    if !(ty == 0 || ty == 2 || ty == 4 || ty == 6) then some 16
    else if ty == 4 then (if sc == 1 || sc == 2 then none else some 20) else if sc != 0 then some 20 else none
  | 0x46 => if Fw.dst w == 15 then some 50 else none
  | 0x47 =>
    let k := im % 16
    if k == 0 || decide (8 < k) then some 0 else if 8 < Fw.m w 3 3 + k then some 19 else none
  | 0x50 | 0x51 | 0x52 | 0x53 | 0x60 | 0x61 => if 2047 < im then some 0 else none
  | _ => none

/-- Endpoints that mode names: inputs and outputs, with the lowest bit of the field (R334, R335). -/
def modeEnds (w : Word) : List (Bool × Nat × Nat) :=
  match Fw.op w with
  | 0x46 => [(false, Fw.m w 0 3, 16)]
  | 0x47 => (true, Fw.m w 0 3, 16) :: (List.range (Fw.imm w % 16)).map (fun j => (false, Fw.m w 3 3 + j, 19))
  | _ => []

/-- Operand fields with their lowest bits. -/
def wordFields (w : Word) : List (Nat × Nat) := [(Fw.dst w, 50), (Fw.a w, 44), (Fw.b w, 38), (Fw.c w, 32)]

/-- LDS and STS, whose rnd and sat are 0 (R337); every other word accepts both (R239; log 29). -/
def plainSlice (w : Word) : Bool := Fw.op w == 0x50 || Fw.op w == 0x51

/-- Checks 1, 2, 3 and 14 on one word alone: the check and DET (R128, R242). -/
def checkWord (w : Word) (ownIn ownOut : Byte) : Option (Nat × Nat) :=
  match wspec w with
  | none => some (1, 56)
  | some p =>
    match (wordFields w).find? (fun f => (decide (54 ≤ f.1) && decide (f.1 ≤ 62))
        || (decide (32 ≤ f.1) && decide (f.1 < 40) && !bit ownIn (f.1 - 32)) || (decide (40 ≤ f.1) && decide (f.1 < 48) && !bit ownOut (f.1 - 40))) with
    | some f => some (2, f.2)
    | none =>
      match (modeEnds w).find? (fun e => decide (e.2.1 < 8) && !(if e.1 then bit ownIn e.2.1 else bit ownOut e.2.1)) with
      | some e => some (2, e.2.2)
      | none =>
        if Fw.ty w == 15 then some (3, 28)
        else if 4 < Fw.rnd w then some (3, 25)
        else if Fw.op w == 0x02 && bitsN w 0 2 == 3 then some (3, 0)
        else
          let places := [(p.dst, Fw.dst w, 50), (p.a, Fw.a w, 44), (p.b, Fw.b w, 38), (p.c, Fw.c w, 32)]
          match places.find? (fun f => !f.1.allows f.2.1) with
          | some f => some (14, f.2.2)
          | none =>
            if !p.ty.allows (Fw.ty w) then some (14, 28)
            else
              let mx := Fw.mode w &&& (255 - p.mode)
              let ix := Fw.imm w &&& (65535 - p.imm)
              if plainSlice w && Fw.rnd w != 0 then some (14, 25)
              else if plainSlice w && bit w 24 then some (14, 24)
              else if mx != 0 then some (14, 16)
              else if ix != 0 then some (14, 0)
              else (wordValues w).map (fun d => (14, d))

/-! ### What depends on the tile's endpoints -/

/-- Input endpoints (CFMT, Lc, MKMODE) and output endpoints (PFMT, PRL) of a tile. -/
structure Ends where
  ins : List (Option (Nat × Nat × Bool)) := []
  outs : List (Option (Nat × Nat)) := []
  deriving DecidableEq, Repr

def Ends.inp (e : Ends) (n : Nat) : Option (Nat × Nat × Bool) := (e.ins[n]?).join
def Ends.out (e : Ends) (n : Nat) : Option (Nat × Nat) := (e.outs[n]?).join
def Ends.prl (e : Ends) (n : Nat) : Nat := match e.out n with | some x => x.2 | none => 1
def Ends.lc (e : Ends) (n : Nat) : Nat := match e.inp n with | some x => x.2.1 | none => 1

/-- Tokens of an MMA's A operand (R345). -/
def mmaToks (ty : Nat) : Nat :=
  match Ty.ofCode ty with
  | some .px2 => 3 | some .px4 => 4 | some .px7 => 6 | some .bf16 => 8 | some .fp16 => 8 | _ => 4

/-- Whether a word takes the format checks of R320. -/
def formatChecked (op : Nat) : Bool :=
  (decide (0x10 ≤ op) && decide (op ≤ 0x1E) && op != 0x1D) || op == 0x37 || (decide (0x38 ≤ op) && decide (op ≤ 0x3B)) || op == 0x46

/-- The type a word writes. -/
def resultTy (w : Word) : Nat := if Fw.op w == 0x37 then Fw.m w 0 4 else Fw.ty w

/-- Format checks (R320) and the entries that name their endpoints (R327, R334, R335, R345, R351): DET, or none. -/
def checkEnds (w : Word) (h : BitVec 128) (e : Ends) : Option Nat :=
  let fmtIn (code : Nat) : Bool := decide (32 ≤ code) && decide (code < 40) && (match e.inp (code - 32) with | some x => x.1 != Fw.ty w | none => true)
  let op := Fw.op w
  let srcs := [(Fw.a w, 44), (Fw.b w, 38), (Fw.c w, 32)]
  let fmtBad := if formatChecked op then
      (match srcs.find? (fun f => fmtIn f.1) with
        | some f => some f.2
        | none =>
          let d := Fw.dst w
          if decide (40 ≤ d) && decide (d < 48) && (match e.out (d - 40) with | some x => x.1 != resultTy w | none => true) then some 50 else none)
    else none
  match fmtBad with
  | some d => some d
  | none =>
    match op with
    | 0x30 => if decide (32 ≤ Fw.a w) && decide (Fw.a w < 40) && decide (max 1 (Hdr.icnt h (Fw.a w - 32)) ≤ Fw.imm w) then some 0 else none
    | 0x46 =>
      let i := e.inp (Fw.a w - 32)
      let o := e.out (Fw.m w 0 3)
      if (match i with | some x => x.2.1 != 1 || !x.2.2 | none => true) then some 44
      else if (match o with | some x => x.2 != 1 || x.1 != Fw.ty w | none => true) then some 16 else none
    | 0x47 =>
      let n := Fw.m w 0 3
      if Hdr.icnt h n != e.lc n || (Hdr.join h != 0 && (n == Hdr.ja h || n == Hdr.jb h)) then some 16
      else if (List.range (Fw.imm w % 16)).any (fun j => e.prl (Fw.m w 3 3 + j) != e.lc n) then some 19 else none
    | 0x60 =>
      let t := mmaToks (Fw.ty w)
      let px := (match Ty.ofCode (Fw.ty w) with | some x => x.isPx | none => false)
      if Fw.a w < 16 then (if 16 < Fw.a w + t - (if px then 1 else 0) then some 44 else none)
      else
        let n := Fw.a w - 32
        if Hdr.icnt h n != t || (match e.inp n with | some x => x.2.1 != t || x.1 != Fw.ty w | none => true) then some 44 else none
    | 0x63 => (match e.out (Fw.dst w - 40) with | some x => if x.1 != Fw.ty w then some 50 else none | none => some 50)
    | _ => none

/-- Output tokens of a word on endpoint n (R318): unconditional tokens, and at most how many of the others. -/
def emitsOn (w : Word) (e : Ends) (n : Nat) : Nat × Nat :=
  let op := Fw.op w
  let at' := Fw.dst w == 40 + n
  match op with
  | 0x43 => if at' then (if bit w 17 then (0, 1) else (1, 0)) else (0, 0)
  | 0x44 => (0, 0)
  | 0x46 => if Fw.m w 0 3 == n then (0, 1) else (0, 0)
  | 0x47 => if decide (Fw.m w 3 3 ≤ n) && decide (n < Fw.m w 3 3 + Fw.imm w % 16) then (0, e.lc (Fw.m w 0 3)) else (0, 0)
  | 0x63 =>
    let rows := if Fw.m w 0 4 == 0 then 16 else Fw.m w 0 4
    if at' then ((rows * wWidth w + 15) / 16, 0) else (0, 0)
  | _ => if at' then (1, 0) else (0, 0)

/-- Whether a word may emit on n without completing a record: EMIT with COND, WIN, ROUTE, MARKOUT. -/
def breaksOn (w : Word) (n : Nat) : Bool :=
  match Fw.op w with
  | 0x43 => bit w 17 && Fw.dst w == 40 + n
  | 0x44 => Fw.dst w == 40 + n
  | 0x46 => Fw.m w 0 3 == n
  | 0x47 => decide (Fw.m w 3 3 ≤ n) && decide (n < Fw.m w 3 3 + Fw.imm w % 16)
  | _ => false

/-- The limits of R318 on a block of words, at its word k. -/
def checkLimits (ws : List Word) (k : Nat) (h : BitVec 128) (e : Ends) : Bool :=
  (List.range 8).any (fun n =>
    let upto := (ws.take (k + 1)).map (fun w => emitsOn w e n)
    let before := ((ws.take k).map (fun w => (emitsOn w e n).1)).sum
    let all := (upto.map (fun x => x.1 + x.2)).sum
    let w := ws.getD k 0
    let uncond := (upto.map (·.1)).sum
    decide (Hdr.ocnt h n < all)
    || (((Fw.op w == 0x43 && bit w 17) || Fw.op w == 0x46) && breaksOn w n && e.prl n != 1)
    || (breaksOn w n && before % e.prl n != 0)
    || (k + 1 == ws.length && uncond % e.prl n != 0))

end Sys2Proof.Machine
end

