-- ==== Sys2Proof/Machine/Loader.lean ====
section
/-! DEFINITION. The loader (R114, R119, R127–R130, R132–R134, R152, R242, R256, R302): the checks of an image in their order, and
what a load writes into tiles, sections and channels. -/

namespace Sys2Proof.Machine

/-! ### Placing an image's channels on the team -/

/-- One channel of an image for one tile of its pattern: pattern and index, that tile, the producer's tile, each branch's tile. -/
structure Inst where
  p : Nat := 0
  c : Nat := 0
  x : Nat := 0
  y : Nat := 0
  crec : CRec := {}
  src : Int × Int := (0, 0)
  dests : List (Int × Int) := []
  deriving DecidableEq, Repr

/-- A coordinate field: a signed offset from the tile, or an absolute team coordinate (R256). -/
def coord (rel : Bool) (home w v : Nat) : Int := if rel then (home : Int) + (BitVec.ofNat w v).toInt else (v : Int)

/-- Consumer tile of a branch. A stream-port consumer with absolute (0, 0) stands at the producer's region (R360). -/
def destOf (c : CRec) (b x y : Nat) (src : Int × Int) : Int × Int :=
  let w := c.words.getD b 0
  let rel := c.brel.getD b false
  if c.ckind.getD b 0 == 1 && !rel && Br.ctx w == 0 && Br.cty w == 0 then src
  else (coord rel x 8 (Br.ctx w), coord rel y 7 (Br.cty w))

def instOf (p c x y : Nat) (r : CRec) : Inst :=
  let src : Int × Int :=
    if r.pkind == 0 then (coord r.prel x 8 (Head.ptx r.head), coord r.prel y 7 (Head.pty r.head)) else ((x : Int), (y : Int))
  { p := p, c := c, x := x, y := y, crec := r, src := src
    dests := (List.range r.words.length).map (fun b => destOf r b x y src) }

def Inst.natDest (i : Inst) (b : Nat) : Nat × Nat := let d := i.dests.getD b (0, 0); (d.1.toNat, d.2.toNat)
def Inst.natSrc (i : Inst) : Nat × Nat := (i.src.1.toNat, i.src.2.toNat)

/-- Tiles of a pattern, in team coordinates, without repeats. -/
def Pat.tiles (p : Pat) : List (Nat × Nat) :=
  (p.rects.flatMap (fun r => (List.range r.h).flatMap (fun j => (List.range r.w).map (fun i => (r.x + i, r.y + j))))).eraseDups

def Img.indexed (m : Img) : List (Nat × Pat) := (List.range m.pats.length).zip m.pats
def Pat.chansIx (p : Pat) : List (Nat × CRec) := (List.range p.chans.length).zip p.chans

/-- Every channel of the image on every tile of its pattern. -/
def Img.insts (m : Img) : List Inst :=
  m.indexed.flatMap (fun q => q.2.tiles.flatMap (fun t => q.2.chansIx.map (fun c => instOf q.1 c.1 t.1 t.2 c.2)))

/-- Record length at the consumer (R126). -/
def CRec.lc (c : CRec) (b : Nat) : Nat := lcOf (Head.pfmt c.head) (Br.cfmt (c.words.getD b 0)) (Head.prl c.head)

/-- What ends and begins at a tile. -/
def endsAt (is : List Inst) (t : Nat × Nat) : Ends :=
  { ins := (List.range 8).map (fun n => is.findSome? (fun i => (List.range i.crec.words.length).findSome? (fun b =>
      let w := i.crec.words.getD b 0
      if i.crec.ckind.getD b 0 == 0 && Br.cep w == n && i.natDest b == t then some (Br.cfmt w, max 1 (i.crec.lc b), Br.fire w) else none)))
    outs := (List.range 8).map (fun n => is.findSome? (fun i =>
      if i.crec.pkind == 0 && Head.pep i.crec.head == n && i.natSrc == t then some (Head.pfmt i.crec.head, Head.prl i.crec.head) else none)) }

/-! ### The checks (R128) -/

/-- The record of R128. -/
def checkRecord (pat chk act wrd det : Nat) : Word :=
  BitVec.ofNat 64 (pat % 2 ^ 16 * 2 ^ 48 + chk * 2 ^ 40 + act % 4 * 2 ^ 36 + wrd % 16 * 2 ^ 32 + det % 2 ^ 32)

/-- A header field refused by R114: the position of the field. -/
def headerBad (h : BitVec 128) : Option Nat :=
  match (List.range 8).find? (fun n => decide (8 < Hdr.icnt h n)) with
  | some n => some (96 + 4 * n)
  | none => match (List.range 8).find? (fun n => decide (8 < Hdr.ocnt h n)) with
    | some n => some (64 + 4 * n)
    | none =>
      if Hdr.iw h == 0 then some 56
      else if Hdr.join h != 0 && Hdr.ja h == Hdr.jb h then some 44
      else if Hdr.blen h == 0 || decide (16 < Hdr.blen h) || decide (64 < Hdr.bstart h + Hdr.blen h) then some 33
      else if bitsN h 0 25 != 0 then some 0 else none

/-- A counted endpoint that the context does not own or that no channel reaches (R114): check 2. -/
def unbound (h : BitVec 128) (p : Pat) (es : List Ends) : Option Nat :=
  match (List.range 8).find? (fun n => Hdr.icnt h n != 0 && (!bit p.ownIn n || es.any (fun e => (e.inp n).isNone))) with
  | some n => some (96 + 4 * n)
  | none => ((List.range 8).find? (fun n => Hdr.ocnt h n != 0 && (!bit p.ownOut n || es.any (fun e => (e.out n).isNone)))).map (fun n => 64 + 4 * n)

/-- The words of an actor's block. -/
def blockOf (fire : Assoc Word) (h : BitVec 128) : List Word := (List.range (Hdr.blen h)).map (fun k => fire.getD (Hdr.bstart h + k) 0)

/-- Check 4 on an actor's header, then the checks on its words. -/
def checkActor (pi a : Nat) (p : Pat) (es : List Ends) (h : BitVec 128) : Option Word :=
  match headerBad h with
  | some d => some (checkRecord pi 4 a 0 d)
  | none => match unbound h p es with
    | some d => some (checkRecord pi 2 a 0 d)
    | none =>
      let ws := blockOf p.fire h
      (List.range ws.length).findSome? (fun k =>
        let w := ws.getD k 0
        match checkWord w p.ownIn p.ownOut with
        | some f => some (checkRecord pi f.1 a k f.2)
        | none => match es.findSome? (checkEnds w h) with
          | some d => some (checkRecord pi 14 a k d)
          | none => if es.any (checkLimits ws k h) then some (checkRecord pi 14 a k 50) else none)

/-- Check 4 on a chain (R119). -/
def checkChain (pi : Nat) (ws : List Word) : Option Word :=
  let w := ws.getD 0 0
  if bitsN w 4 28 != 0 then some (checkRecord pi 4 0 0 4)
  else if decide (6 ≤ bitsN w 0 3) then some (checkRecord pi 4 0 0 0) else none

/-- Check 11: rectangles, then channels (R128). -/
def checkPlaces (t : Team) (m : Img) (pi : Nat) (p : Pat) : Option Word :=
  let earlier := (m.pats.take pi).flatMap Pat.tiles
  match (List.range p.rects.length).find? (fun k =>
      let r := p.rects.getD k ⟨0, 0, 0, 0⟩
      !r.inTeam t || earlier.any (fun q => r.has q.1 q.2)) with
  | some k => some (checkRecord pi 11 0 0 k)
  | none =>
    let inT (q : Int × Int) : Bool := decide (0 ≤ q.1) && decide (q.1 < 16 * t.w) && decide (0 ≤ q.2) && decide (q.2 < 16 * t.h)
    (p.chansIx.find? (fun c => p.tiles.any (fun q =>
      let i := instOf pi c.1 q.1 q.2 c.2
      !inT i.src || (List.range c.2.words.length).any (fun b => c.2.ckind.getD b 0 != 2 && c.2.ckind.getD b 0 != 4 && !inT (i.dests.getD b (0, 0)))))).map
      (fun c => checkRecord pi 11 0 0 c.1)

/-- The tiles a load writes: those of the image's patterns inside RECT (R302). -/
def Pat.loads (p : Pat) (rect : Option Rect) : List (Nat × Nat) :=
  match rect with
  | none => p.tiles
  | some r => p.tiles.filter (fun q => r.has q.1 q.2)

/-- Check 5: an endpoint owned twice, or consumed by two actors. -/
def checkOwners (s : State) (t : Team) (ctx : Nat) (rect : Option Rect) (is : List Inst) (pi : Nat) (p : Pat) : Option Word :=
  let two := (List.range 8).findSome? (fun n =>
    let as := p.hdrs.cells.filter (fun h => Hdr.icnt h.2 n != 0)
    if decide (2 ≤ as.length) then some (checkRecord pi 5 ((as.map (·.1)).foldl max 0) 0 (96 + 4 * n)) else none)
  let other := (p.loads rect).findSome? (fun q =>
    let rt := teamTile t q.1 q.2
    (getTile s rt.1 rt.2).ctxs.cells.findSome? (fun c =>
      if c.1 == ctx then none
      else
        let both := (c.2.ownIn &&& p.ownIn).toNat + 256 * (c.2.ownOut &&& p.ownOut).toNat
        if both == 0 then none else some (checkRecord pi 5 0 0 (lowBit both))))
  let key (i : Inst) : List (Nat × Nat × Nat × Nat) :=
    (if i.crec.pkind == 0 then [(1, i.natSrc.1, i.natSrc.2, Head.pep i.crec.head)] else [])
    ++ (List.range i.crec.words.length).filterMap (fun b =>
      if i.crec.ckind.getD b 0 == 0 then some (0, (i.natDest b).1, (i.natDest b).2, Br.cep (i.crec.words.getD b 0)) else none)
  let ks := is.map (fun i => (i, key i))
  let twice := (ks.find? (fun i => i.1.p == pi && (i.2.eraseDups.length != i.2.length
    || ks.any (fun j => (j.1.p, j.1.c, j.1.x, j.1.y) != (i.1.p, i.1.c, i.1.x, i.1.y) && j.2.any (fun k => i.2.contains k))))).map
    (fun i => checkRecord pi 5 0 0 i.1.c)
  (two.orElse (fun _ => other)).orElse (fun _ => twice)

/-- Check 6: counts that are no multiple of the record length. -/
def checkCounts (pi : Nat) (p : Pat) (es : List Ends) : Option Word :=
  (List.range 4).findSome? (fun a => match p.hdrs.find? a with
    | none => none
    | some h => match (List.range 8).find? (fun n => es.any (fun e => Hdr.icnt h n % e.lc n != 0)) with
      | some n => some (checkRecord pi 6 a 0 (96 + 4 * n))
      | none => ((List.range 8).find? (fun n => es.any (fun e => Hdr.ocnt h n % e.prl n != 0))).map (fun n => checkRecord pi 6 a 0 (64 + 4 * n)))

/-- Check 7: a junction pair or a record length that R125 or R126 refuses. -/
def checkPairs (pi : Nat) (p : Pat) : Option Word :=
  (p.chansIx.find? (fun c => (List.range c.2.words.length).any (fun b =>
    let w := c.2.words.getD b 0
    !pairOk (Head.pfmt c.2.head) (Br.cfmt w) (Br.shift w) || decide (8 < c.2.lc b)))).map (fun c => checkRecord pi 7 0 0 c.1)

/-- The regions of the team, by column and row, that a pattern has a tile in. -/
def Pat.regions (p : Pat) : List (Nat × Nat) := (p.tiles.map (fun q => (q.1 / 16, q.2 / 16))).eraseDups

/-- Check 9: a section of a region with actors and no SECX actor (R121). -/
def checkSections (m : Img) (pi : Nat) (p : Pat) : Option Word :=
  let there := p.regions.map (fun g => (m.pats.filter (fun q => q.regions.contains g)).flatMap (fun q => q.hdrs.vals))
  ((List.range 16).find? (fun k => p.hdrs.vals.any (fun h => Hdr.sec h == k)
    && there.any (fun hs => !hs.any (fun h => Hdr.sec h == k && Hdr.secx h)))).map (fun k => checkRecord pi 9 0 0 k)

/-- Bytes of a slice that an extension ring takes: from, to (R118). -/
def ringSpan (base depth lc : Nat) : Nat × Nat := (64 * base, 64 * (base + (depth * lc - 16)))

/-- Rings of an image: tile, span, pattern, channel. -/
def imageRings (is : List Inst) : List ((Nat × Nat) × (Nat × Nat) × Nat × Nat × Nat) :=
  is.flatMap (fun i => (List.range i.crec.words.length).filterMap (fun b =>
    let d := Br.depth (i.crec.words.getD b 0)
    if i.crec.ckind.getD b 0 == 0 && decide (16 < d * i.crec.lc b) then
      some (i.natDest b, ringSpan (i.crec.ext.getD b 0) d (i.crec.lc b), i.p, i.c, b)
    else none))

/-- Whether a channel is given by a context that a load replaces. -/
def replaced (t : Team) (ctx : Nat) (tiles : List (Nat × Nat)) (c : Chan) : Bool :=
  c.team == t.id && c.ctx == ctx && tiles.any (fun q => teamTile t q.1 q.2 == (c.preg, c.ptile))

/-- Whether a branch ends at an actor of a tile, at an endpoint. -/
def Branch.endsHere (b : Branch) (q : Nat × Nat) (ep : Nat) : Bool :=
  b.kind == 0 && !b.remote && (Br.ctx b.word, Br.cty b.word) == q && Br.cep b.word == ep

/-- Whether an instance has a branch that ends where a branch ends. -/
def Inst.takes (i : Inst) (b : Branch) : Bool :=
  (List.range i.crec.words.length).any (fun k => i.crec.ckind.getD k 0 == 0 && b.endsHere (i.natDest k) (Br.cep (i.crec.words.getD k 0)))

/-- Check 10: a ring outside the slice, or overlapping another of the image or of a channel of the team that stays. -/
def checkRings (s : State) (t : Team) (ctx : Nat) (tiles : List (Nat × Nat)) (is : List Inst) (pi : Nat) : Option Word :=
  let rs := imageRings is
  let new := is.filter (fun i => tiles.contains (i.x, i.y))
  let live := s.chans.vals.flatMap (fun c => if c.team != t.id || !c.live || replaced t ctx tiles c then [] else
    c.branches.filterMap (fun b => if b.hasRing c.head && !new.any (·.takes b) then
      some ((Br.ctx b.word, Br.cty b.word), ringSpan b.ext.toNat (Br.depth b.word) (b.lc c.head)) else none))
  let clash (a b : Nat × Nat) : Bool := decide (a.1 < b.2) && decide (b.1 < a.2)
  (rs.find? (fun r => r.2.2.1 == pi && (decide (131072 < r.2.1.2)
    || rs.any (fun q => q != r && q.1 == r.1 && clash q.2.1 r.2.1)
    || live.any (fun q => q.1 == r.1 && clash q.2 r.2.1)))).map (fun r => checkRecord pi 10 0 0 r.2.2.2.1)

/-- Whether a SWITCH of the team to a context of a tile has been accepted and has not retired (R129). -/
def switchQueued (s : State) (r tile ctx : Nat) : Bool :=
  match teamOf s r with
  | none => false
  | some t => t.regions.any (fun q => ((getRegion s q).cmds.queues.getD 32 []).any (fun c =>
      match decodeCmd c.word with
      | .ok (.switch x rect) => x.toNat == ctx && (rectTiles t q (rectOf rect)).contains (r, tile)
      | _ => false))

/-- Whether a context of a tile is busy (R129). -/
def ctxBusy (s : State) (r tile ctx : Nat) : Bool :=
  let t := getTile s r tile
  let armed := (List.range 16).any (fun k => let x := (getRegion s r).sects.getD (ctx * 16 + k) {}; x.armed && !x.done)
  (t.active == ctx && armed)
  || (match t.csw with | some c => c.1 == ctx | none => false) || (match t.cswDue with | some c => c.1 == ctx | none => false)
  || switchQueued s r tile ctx
  || ((decide (s.clock < t.busy) || t.fir.isSome) && t.active == ctx)

/-- Check 12: a target context is busy. -/
def checkBusy (s : State) (t : Team) (ctx : Nat) (rect : Option Rect) (pi : Nat) (p : Pat) : Option Word :=
  if (p.loads rect).any (fun q => let rt := teamTile t q.1 q.2; ctxBusy s rt.1 rt.2 ctx) then some (checkRecord pi 12 0 0 0) else none

/-- Check 13: a head or branch word refused by R133, R134 or R256. -/
def checkWords (pi : Nat) (p : Pat) : Option Word :=
  (p.chansIx.find? (fun c => bitsN c.2.head 0 66 != 0 || Head.pfmt c.2.head == 15 ||
    (List.range c.2.words.length).any (fun b => !branchOk (c.2.words.getD b 0)
      || (c.2.ckind.getD b 0 == 1 && decide (31 < c.2.port.getD b 0))))).map (fun c => checkRecord pi 13 0 0 c.1)

/-! Check 8: the Reins (R152). -/

/-- A coupled branch: KP, KI, and the vertices of its ends: tile and actor, none for an end that is no actor. -/
structure Coupled where
  kp : Nat
  ki : Nat
  prod : Option (Nat × Nat × Nat)
  cons : Option (Nat × Nat × Nat)
  det : Nat × Nat
  deriving DecidableEq, Repr

/-- Add an edge to a forest kept as its components; none when it closes a cycle. -/
def forestAdd (cs : List (List (Nat × Nat × Nat))) (a b : Nat × Nat × Nat) : Option (List (List (Nat × Nat × Nat))) :=
  let ca := (cs.find? (·.contains a)).getD [a]
  let cb := (cs.find? (·.contains b)).getD [b]
  if ca.contains b then none
  else some ((ca ++ cb) :: cs.filter (fun c => !(c.contains a) && !(c.contains b)))

/-- The first coupled branch that breaks R152. -/
def reinsBad (es : List Coupled) : Option (Nat × Nat) :=
  let touches (v : Nat × Nat × Nat) (e : Coupled) : Bool := e.prod == some v || e.cons == some v
  let gain (v : Nat × Nat × Nat) : Nat := ((es.filter (touches v)).map (·.kp)).sum
  let tooMuch (v : Option (Nat × Nat × Nat)) : Bool := match v with | some v => decide (4096 < gain v) | none => false
  match es.find? (fun e => tooMuch e.prod || tooMuch e.cons || decide (e.kp < 16 * e.ki)) with
  | some e => some e.det
  | none =>
    let x := es.foldl (fun (acc : List (List (Nat × Nat × Nat)) × Option (Nat × Nat)) e =>
      match acc.2, e.prod, e.cons with
      | none, some a, some b => match forestAdd acc.1 a b with
        | some cs => (cs, none)
        | none => (acc.1, some e.det)
      | _, _, _ => acc) ([], none)
    x.2

/-- The image's coupled branches on the team's tiles. -/
def imageCoupled (m : Img) (is : List Inst) : List Coupled :=
  is.flatMap (fun i => (List.range i.crec.words.length).filterMap (fun b =>
    let w := i.crec.words.getD b 0
    if !Br.cen w then none
    else
      let d := i.natDest b
      let cons := if i.crec.ckind.getD b 0 != 0 then none else
        (m.pats.find? (fun p => p.tiles.contains d)).bind (fun p =>
          (p.hdrs.cells.find? (fun h => Hdr.icnt h.2 (Br.cep w) != 0)).map (fun h => (d.1, d.2, h.1)))
      let prod := if i.crec.pkind == 0 then some (i.natSrc.1, i.natSrc.2, Head.pact i.crec.head) else none
      some { kp := Br.kp w, ki := Br.ki w, prod := prod, cons := cons, det := (i.p, i.c) }))

/-- The checks of R128 after check 15, in their order: the first failure's record. -/
def checkImage (s : State) (t : Team) (ctx : Nat) (rect : Option Rect) (m : Img) : Option Word :=
  let is := m.insts
  let tiles := m.indexed.flatMap (fun q => q.2.loads rect)
  let pats := m.indexed.findSome? (fun q =>
    let pi := q.1
    let p := q.2
    let es := (p.tiles.map (endsAt is)).eraseDups
    match checkPlaces t m pi p with
    | some w => some w
    | none =>
    match (List.range 4).findSome? (fun a => (p.hdrs.find? a).bind (checkActor pi a p es)) with
    | some w => some w
    | none =>
    match (List.range 4).findSome? (fun k => (p.chains.find? k).bind (checkChain pi)) with
    | some w => some w
    | none =>
    match checkOwners s t ctx rect is pi p with
    | some w => some w
    | none =>
    match checkCounts pi p es with
    | some w => some w
    | none =>
    match checkPairs pi p with
    | some w => some w
    | none =>
    match checkSections m pi p with
    | some w => some w
    | none =>
    match checkRings s t ctx tiles is pi with
    | some w => some w
    | none =>
    match checkBusy s t ctx rect pi p with
    | some w => some w
    | none => checkWords pi p)
  match pats with
  | some w => some w
  | none => (reinsBad (imageCoupled m is)).map (fun d => checkRecord d.1 8 0 0 d.2)

/-! ### Installing (R129, R130, R256, R302) -/

/-- Update one team tile. -/
def updTeamTile (s : State) (t : Team) (q : Nat × Nat) (f : Tile → Tile) : State :=
  let rt := teamTile t q.1 q.2
  updTile s rt.1 rt.2 f

/-- A counter chain from its record (R119, R130). -/
def chainOf (ws : List Word) : Chain :=
  let w := ws.getD 0 0
  { base := bits w 32 32, lsel := bitsN w 0 3
    levels := (List.range 6).map (fun l => { i := 0, count := bitsN (ws.getD (l + 1) 0) 32 16, stride := bits (ws.getD (l + 1) 0) 0 32 }) }

/-- A seed: 0 is replaced by 1 (R130). -/
def seedOf (v : Word32) : Word32 := if v = 0 then 1 else v

/-- Write a bank's 512 words, row-major; a word that is not listed is zero. -/
def putBank (m : Assoc Word32) (bank : Nat) (ws : List Word32) : Assoc Word32 :=
  let keep := m.cells.filter (fun c => c.1 / 512 != bank)
  ⟨keep ++ ((List.range 512).zip ws).filterMap (fun w => if w.2 = 0 then none else some (bank * 512 + w.1, w.2))⟩

/-- What a load writes into one tile: the context anew, and of the shared state what the image carries. -/
def loadTile (p : Pat) (ctx : Nat) (t : Tile) : Tile :=
  let actors : Assoc Actor := p.hdrs.mapVals (fun _ h => h) |>.cells.map (fun c => (c.1, ({ hdr := c.2, weight := Hdr.iw c.2 } : Actor))) |> Assoc.mk
  let old := t.ctxs.getD ctx {}
  let x : Ctx := { actors := actors, fire := p.fire, consts := p.consts, ownIn := p.ownIn, ownOut := p.ownOut, startNum := old.startNum }
  let t := { t with ctxs := t.ctxs.put ctx x }
  let t := p.chains.cells.foldl (fun t c => { t with chains := t.chains.put c.1 (chainOf c.2) }) t
  let t := match p.seeds with
    | some l => { t with lfsr := seedOf (l.getD 0 0)
                         jl := (List.range 8).foldl (fun m n => m.put n (seedOf (l.getD (n + 1) 0))) t.jl }
    | none => t
  p.accs.cells.foldl (fun t c => { t with acc := putBank t.acc c.1 c.2 }) t

/-- Keep the junction LFSR of a branch that goes at its endpoint. -/
def keepLfsr (s : State) (c : Chan) (b : Branch) : State :=
  if b.kind != 0 || b.remote then s
  else
    let x := consTile s c b
    updTile s x.1 x.2 (fun t => { t with jl := t.jl.put (Br.cep b.word) b.lfsr })

/-- Whether a branch still holds or awaits records or markers. -/
def Branch.holds (b : Branch) : Bool := !b.buf.isEmpty || !b.flight.isEmpty || !b.spill.isEmpty

/-- The channels of the replaced contexts go, with every token landed at the endpoints that the loading context owned or now owns, and the
branch state there (R129, R130). A replaced channel whose tokens stand elsewhere or are on their way stays with no producer until they are
consumed (log 25). -/
def dropOld (s : State) (t : Team) (ctx : Nat) (loads : List (Pat × List (Nat × Nat))) : State :=
  let tiles := loads.flatMap (·.2)
  let gone := s.chans.cells.filter (fun c => replaced t ctx tiles c.2)
  let s := gone.foldl (fun s c => c.2.branches.foldl (fun s b => keepLfsr s c.2 b) s) s
  let owned (c : Chan) (b : Branch) : Bool :=
    b.kind == 0 && !b.remote && c.team == t.id && loads.any (fun l => l.2.contains (Br.ctx b.word, Br.cty b.word) && (bit l.1.ownIn (Br.cep b.word) ||
      (let x := consTile s c b; bit ((getTile s x.1 x.2).ctxs.getD ctx {}).ownIn (Br.cep b.word))))
  let chans := s.chans.cells.filterMap (fun k =>
    let c := { k.2 with branches := k.2.branches.map (fun b => if owned k.2 b then { b with buf := [], spill := [], st := {} } else b) }
    if !replaced t ctx tiles c then some (k.1, c)
    else if c.branches.any (·.holds) then some (k.1, { c with prod := 3, branches := c.branches.map (fun b => if b.holds then b else { b with kind := 3 }) })
    else none)
  { s with chans := ⟨chans⟩ }

/-- Whether no channel of a team that still exists has an id: the last state of one whose team has come to its end stays to be read (R361). -/
def chidFree (s : State) (k : Nat) : Bool :=
  match s.chans.find? k with
  | none => true
  | some c => !c.live && (getTeam s c.team).w == 0

/-- The lowest channel id, from 1, that is free (R133). -/
def freshChid (s : State) : Nat := ((List.range (s.chans.cells.length + 1)).map (· + 1)).find? (chidFree s) |>.getD 1

/-- The live branches that end where a new one ends: at an endpoint of a tile, or at a stream port of its region. -/
def endsWith (s : State) (t : Team) (b : Branch) (ch : Nat) : List (Nat × Nat) :=
  s.chans.cells.flatMap (fun k => if k.2.team != t.id || !k.2.live || k.1 == ch then [] else
    (k.2.indexed.filter (fun o =>
      (b.kind == 0 && !b.remote && o.2.endsHere (Br.ctx b.word, Br.cty b.word) (Br.cep b.word))
      || (b.kind == 1 && o.2.kind == 1 && o.2.port == b.port && (consTile s k.2 o.2).1 == (teamTile t (Br.ctx b.word) (Br.cty b.word)).1))).map (fun o => (k.1, o.1)))

/-- A branch goes out of use, keeping its junction LFSR at its endpoint (R130). -/
def retireEnd (s : State) (ch br : Nat) : State :=
  let b := getBranch s ch br
  updBranch (keepLfsr s (getChan s ch) b) ch br (fun b => { b with kind := 3, buf := [], flight := [], spill := [] })

/-- What the branch that a new one takes the place of held, or had on its way, goes on there: what the loading context does not own is not
discarded (R129; log 25). -/
def takeOver (s : State) (c : Chan) (old : Branch) (ch br : Nat) : State :=
  let s := (old.buf.map (ringItem s c old)).foldl (fun s i => pushItem s ch br { i with slots := [] }) s
  updBranch s ch br (fun b => { b with
    flight := b.flight ++ old.flight, spill := b.spill ++ old.spill
    st := { b.st with spocc := old.st.spocc, sphd := old.st.sphd, gap := old.st.gap, closed := old.st.closed } })

def updPort (s : State) (r p : Nat) (f : Port → Port) : State :=
  updRegion s r (fun g => { g with ports := g.ports.put p (f (g.ports.getD p {})) })

/-- A stream port that a loaded channel begins or ends at is at end of stream (R298). -/
def portAtEos (s : State) (r p : Nat) : State := updPort s r p (fun x => { x with eos := true })

/-- The image's seed for the junction of a tile's endpoint (R142). -/
def Img.seedAt (m : Img) (q : Nat × Nat) (ep : Nat) : Word32 :=
  match (m.pats.find? (fun p => p.tiles.contains q)).bind (·.seeds) with
  | some l => seedOf (l.getD (ep + 1) 0)
  | none => 1

/-- A junction's seed reaches the branch that ends there, when it stays (R130). -/
def seedBranches (s : State) (t : Team) (tiles : List (Nat × Nat)) : State :=
  { s with chans := s.chans.mapVals (fun _ c => if c.team != t.id then c else
      { c with branches := c.branches.map (fun b =>
          if b.kind == 0 && !b.remote && tiles.contains (Br.ctx b.word, Br.cty b.word) then
            let x := consTile s c b
            { b with lfsr := (getTile s x.1 x.2).jl.getD (Br.cep b.word) b.lfsr }
          else b) }) }

/-- Install one channel: absolute coordinates, the producer's module, a fresh id, empty branch state. -/
def installChan (s : State) (t : Team) (ctx : Nat) (m : Img) (i : Inst) : State :=
  let ch := freshChid s
  let sr := teamTile t i.natSrc.1 i.natSrc.2
  let h := setBits (setBits (setBits (setBits (setBits i.crec.head 112 16 ch) 99 13 (modN s)) 91 8 i.natSrc.1) 84 7 i.natSrc.2) 66 4 0
  let branches := (List.range i.crec.words.length).map (fun b =>
    let d := i.natDest b
    let kind := i.crec.ckind.getD b 0
    ({ word := setBits (setBits (i.crec.words.getD b 0) 248 8 d.1) 241 7 d.2, ext := BitVec.ofNat 16 (i.crec.ext.getD b 0)
       kind := BitVec.ofNat 2 kind, port := BitVec.ofNat 16 (i.crec.port.getD b 0), remote := kind == 4 } : Branch))
  let olds := branches.flatMap (fun b => endsWith s t b ch)
  let held := (List.range branches.length).map (fun b => (b, (endsWith s t (branches.getD b {}) ch).map (fun o => (getChan s o.1, getBranch s o.1 o.2))))
  let s := olds.foldl (fun s o => retireEnd s o.1 o.2) s
  let branches := branches.map (fun b =>
    let rt := teamTile t (Br.ctx b.word) (Br.cty b.word)
    { b with lfsr := if b.remote then m.seedAt (Br.ctx b.word, Br.cty b.word) (Br.cep b.word)
                     else if b.kind == 0 then (getTile s rt.1 rt.2).jl.getD (Br.cep b.word) 1 else 1 })
  let s := if i.crec.pkind == 1 then portAtEos s sr.1 i.crec.sport else s
  let s := branches.foldl (fun s b => if b.kind == 1 then portAtEos s (teamTile t (Br.ctx b.word) (Br.cty b.word)).1 b.port.toNat else s) s
  let s := setChan s ch { head := h, branches := branches, team := t.id, ctx := ctx, prod := BitVec.ofNat 2 i.crec.pkind, preg := sr.1, ptile := sr.2
                          pport := i.crec.sport }
  held.foldl (fun s x => x.2.foldl (fun s o => takeOver s o.1 o.2 ch x.1) s) s

/-- Records and markers of an endpoint's initial tokens (R130). -/
def initialToks (s : State) (ch br : Nat) (toks : List Tok) : State :=
  (splitRecords toks).foldl (fun s r =>
    match r with
    | [] => s
    | t :: _ =>
      if Sb.isMark t.side then (if t.mtype == 1 then arriveGap s ch br (gapOf t.pay) else
        bufferItem s ch br { seq := (getBranch s ch br).st.seq, toks := r, mark := true })
      else
        let q := (getBranch s ch br).st.seq
        let s := updState s ch br (fun x => { x with seq := (q + 1) % 2 ^ 48, cumw := sat64 (x.cumw + recWeight r) })
        bufferItem s ch br { seq := q, toks := r }) s

/-- Actors of a section of a region's context: tile and actor. -/
def sectActors (s : State) (r ctx sec : Nat) : List (Nat × Nat) :=
  s.tiles.cells.flatMap (fun c => if c.1 / 256 != r then [] else
    (c.2.ctxs.getD ctx {}).actors.cells.filterMap (fun a => if Hdr.sec a.2.hdr == sec then some (c.1 % 256, a.1) else none))

def updActor (s : State) (r tile ctx a : Nat) (f : Actor → Actor) : State :=
  updTile s r tile (fun t => match t.ctxs.find? ctx with
    | some c => match c.actors.find? a with
      | some x => { t with ctxs := t.ctxs.put ctx { c with actors := c.actors.put a (f x) } }
      | none => t
    | none => t)

/-- Arm a section (R121): a halted actor may fire again (R340). -/
def armSection (s : State) (r ctx sec count : Nat) : State :=
  (sectActors s r ctx sec).foldl (fun s x => updActor s r x.1 ctx x.2 (fun a => { a with halted := false, remaining := if Hdr.secx a.hdr then count else 0 })) s

/-- Replace a region's section table of a context from the image (R302). -/
def loadSections (s : State) (r ctx : Nat) (ps : List Pat) : State :=
  let entry (k : Nat) : Option Nat := ps.foldl (fun acc p => match p.sects with
    | some l => (match l[k]? with | some (true, n) => some n | _ => acc)
    | none => acc) none
  (List.range 16).foldl (fun s k =>
    let old := (getRegion s r).sects.getD (ctx * 16 + k) {}
    let x : Sect := { armed := (entry k).isSome, count := (entry k).getD 0, num := if old.waits then old.num else 0, last := old.last, waits := old.waits }
    let s := updRegion s r (fun g => { g with sects := g.sects.put (ctx * 16 + k) x })
    match entry k with
    | some n => armSection s r ctx k n
    | none => s) s

/-- Load an image that has passed its checks. -/
def installImage (s : State) (t : Team) (ctx : Nat) (rect : Option Rect) (m : Img) : State :=
  let loads := m.indexed.map (fun q => (q.1, q.2, q.2.loads rect))
  let tiles := loads.flatMap (fun l => l.2.2)
  let s := dropOld s t ctx (loads.map (·.2))
  let s := loads.foldl (fun s l => l.2.2.foldl (fun s q => updTeamTile s t q (loadTile l.2.1 ctx)) s) s
  let is := m.insts.filter (fun i => tiles.contains (i.x, i.y))
  let seeded := (loads.filter (fun l => l.2.1.seeds.isSome)).flatMap (fun l => l.2.2)
  let s := seedBranches s t seeded
  let s := is.foldl (fun s i => installChan s t ctx m i) s
  let s := loads.foldl (fun s l => l.2.2.foldl (fun s q =>
    let rt := teamTile t q.1 q.2
    (List.range 8).foldl (fun s ep => match l.2.1.toks.find? ep, inBranch s rt.1 rt.2 ep with
      | some toks, some cb => initialToks s cb.1 cb.2 toks
      | _, _ => s) s) s) s
  let regs := (tiles.map (fun q => (teamTile t q.1 q.2).1)).eraseDups
  regs.foldl (fun s r =>
    let ps := (loads.filter (fun l => l.2.2.any (fun q => (teamTile t q.1 q.2).1 == r))).map (fun l => l.2.1)
    let s := updRegion s r (fun g => { g with civ := m.civ })
    loadSections s r ctx ps) s

/-! ### Images and the dies' caches (R44) -/

/-- The structure of an image can be read (R128, R255). -/
def imageReads (bs : List Byte) : Bool := match readImage bs with | .ok _ => true | .error _ => false

/-- Bytes of a registered image as they stand in HBM. -/
def imageBytes (s : State) (i : Image) : List Byte := readBytes s (hbmKey (modN s) i.addr) i.len

/-- Images that a live team on a die uses. -/
def usedSerials (s : State) (die : Nat) : List Nat :=
  s.teams.vals.filterMap (fun t => if t.regions.any (fun r => t.holds r && regionDie r == die) then some t.image.serial else none)

/-- The copy of an image that a die's cache holds; on a miss it is fetched and checked, and when it passes the least recently used entry that
no live team uses is replaced. None: all 64 entries are in use. -/
def cacheFetch (s : State) (die : Nat) (i : Image) (good : List Byte → Bool) : Option (List Byte × State) :=
  let c := s.ost.caches.getD die []
  let put (l : List (Nat × List Byte)) : State := { s with ost := { s.ost with caches := s.ost.caches.put die l } }
  match c.find? (fun e => e.1 == i.serial) with
  | some e => some (e.2, put (e :: c.filter (fun x => x.1 != i.serial)))
  | none =>
    let bs := imageBytes s i
    if !good bs then some (bs, s)
    else if decide (c.length < 64) then some (bs, put ((i.serial, bs) :: c))
    else
      let used := usedSerials s die
      match c.reverse.find? (fun e => !used.contains e.1) with
      | some v => some (bs, put ((i.serial, bs) :: c.filter (fun x => x.1 != v.1)))
      | none => none

end Sys2Proof.Machine
end

