-- ==== Sys2Proof/Machine/Fire.lean ====
section
/-! DEFINITION. A firing in progress (R115, R316–R321): what its words see and what they queue; counter chains (R119, R120);
costs and durations of firing words (R101, R198, R321, R348–R354). -/

namespace Sys2Proof.Machine

/-! ### Counter chains (R120) -/

def Chain.level (c : Chain) (l : Nat) : Level := c.levels.getD l {}
def Level.n (l : Level) : Nat := max 1 l.count

/-- BASE + Σ I·STRIDE modulo 2^32. -/
def Chain.index (c : Chain) : Word32 :=
  (List.range 6).foldl (fun v l => v + BitVec.ofNat 32 (c.level l).i * (c.level l).stride) c.base

/-- Whether level l is last. -/
def Chain.isLast (c : Chain) (l : Nat) : Bool := (List.range (l + 1)).all (fun k => (c.level k).i + 1 == (c.level k).n)

/-- Step the levels, innermost first; true when the carry leaves level 5. -/
def stepLevels : List Level → List Level × Bool
  | [] => ([], true)
  | l :: ls =>
    if l.i + 1 < l.n then ({ l with i := l.i + 1 } :: ls, false)
    else
      let x := stepLevels ls
      ({ l with i := 0 } :: x.1, x.2)

/-- One advance; WRAP is set by the advance that wraps and cleared by the next (R119, R120). -/
def Chain.advance (c : Chain) : Chain :=
  let x := stepLevels ((List.range 6).map c.level)
  { c with levels := x.1, wrap := x.2 }

/-- The token of operand idx (R120). -/
def Chain.token (c : Chain) : Line :=
  let mask := (List.range 6).foldl (fun m l => if c.isLast l then m + 2 ^ l else m) 0
  ofLanes 32 (c.index.toNat :: ((List.range 6).map (fun l => (c.level l).i) ++ [mask]))

/-! ### A firing -/

/-- A token queued on an output: with a sideband of its own (markers, routed records, window tokens), or one that R318 composes at
the end. -/
structure OutTok where
  pay : Line := 0
  side : BitVec 24 := 0
  own : Bool := false
  deriving DecidableEq, Repr

/-- A firing in progress: the tile and memory as its words leave them, what it reads, what it queues. -/
structure Fir where
  s : State := {}
  r : Nat := 0
  tile : Nat := 0
  ctx : Nat := 0
  a : Nat := 0
  t : Tile := {}
  act : Actor := {}
  c : Ctx := {}
  /-- tokens of the head of each input endpoint -/
  heads : List (List Tok) := []
  mark : Option Nat := none
  fill : Option Nat := none
  wb : Nat := 1
  wr : Nat := 1
  cb : Bool := false
  nb : Bool := false
  sat : Bool := false
  l : Bool := false
  outs : List (List OutTok) := []
  prls : List Nat := []
  /-- operand wt as converted for the word in progress -/
  wt : Line := 0
  clocks : Nat := 0
  gait : Option (BitVec 2) := none
  wset : Option Nat := none
  chains : List Nat := []
  halt : Bool := false
  radd : List (Nat × Nat × Nat) := []
  /-- headers and metadata lines that the check of R346 read, in word order -/
  meta' : List (Nat × Line × Line) := []
  /-- the chains as they stood when it began (R120) -/
  start : Assoc Chain := {}
  /-- the first of the free values that its words still take -/
  free : Nat := 0
  /-- accesses of the slice made earlier that the words come to again, and what those now made read (R339, R356) -/
  got : List (List Byte) := []
  did : List (List Byte) := []
  /-- accesses that may be made now; once none is left the words stand still at the next -/
  more : Nat := 0
  stuck : Bool := false
  /-- MACHINE_CHECK has been raised by an access (R215, R341, R357) -/
  struck : Bool := false
  deriving DecidableEq, Repr

def Fir.head (f : Fir) (n : Nat) : List Tok := f.heads.getD n []

/-- A source operand (R316). -/
def Fir.src (f : Fir) (code : Nat) (tok : Nat := 0) : Line :=
  if code < 16 then f.t.v.getD code 0
  else if code < 32 then f.c.consts.getD (code - 16) 0
  else if code < 40 then
    (if f.fill == some (code - 32) then f.c.consts.getD (Hdr.fillc f.act.hdr) 0
     else match (f.head (code - 32))[tok]? with | some t => t.pay | none => 0)
  else if code == 52 then (f.start.getD (Hdr.chain f.act.hdr) {}).token
  else if code == 53 then f.wt
  else 0

/-- Operand wt, once for each word that reads it: WB converted to the word's type (R316), with one step of the LFSR under SR (R189);
a type that R192 does not reach gives a free value. -/
def Fir.readWt (f : Fir) (w : Word) : Fir :=
  if Fw.a w != 53 && Fw.b w != 53 && Fw.c w != 53 then f
  else
    let lf := if Fw.rnd w == 4 then lfsrStep f.t.lfsr else f.t.lfsr
    let f := { f with t := { f.t with lfsr := lf } }
    match Ty.ofCode (Fw.ty w) with
    | some t =>
      if t.isPx then { f with wt := Config.freeLine f.free, free := f.free + 1 }
      else { f with wt := ofLanes t.width (List.replicate t.lanes (encodeLane .w32 t (Fw.rnd w) (Fw.sat w) (bitsN lf 0 16) (.ofInt f.wb))) }
    | none => { f with wt := Config.freeLine f.free, free := f.free + 1 }

def Fir.push (f : Fir) (n : Nat) (o : OutTok) : Fir := { f with outs := f.outs.set n (f.outs.getD n [] ++ [o]) }

/-- DATA and SCALE tokens queued on an endpoint so far. -/
def Fir.queued (f : Fir) (n : Nat) : Nat := ((f.outs.getD n []).filter (fun o => !Sb.isMark o.side)).length

/-- Queue a DATA or SCALE token with the sideband of R318; weight, C and N are set at the end. -/
def Fir.data (f : Fir) (n kind : Nat) (pay : Line) : Fir :=
  let k := f.queued n
  let p := f.prls.getD n 1
  f.push n { pay := pay, side := Sb.mk kind (k % p == 0) (k % p == p - 1) f.l f.fill.isSome false false 0 }

/-- Write a word's result (R316, R318, R319). -/
def Fir.put (f : Fir) (code : Nat) (v : Line) : Fir :=
  if code < 16 then { f with t := { f.t with v := f.t.v.put code v } }
  else if 40 ≤ code && code < 48 then (if f.mark.isSome then f else f.data (code - 40) 0 v)
  else f

/-- Queue a marker, or a token with its own sideband; L by R120. -/
def Fir.own (f : Fir) (n : Nat) (t : Tok) : Fir := f.push n { pay := t.pay, side := setBits t.side 19 1 (if f.l then 1 else 0), own := true }

/-- The tokens of an endpoint as they leave (R318). -/
def Fir.leaving (f : Fir) (n : Nat) : List Tok :=
  (f.outs.getD n []).map (fun o => if o.own then ⟨o.pay, o.side⟩ else
    ⟨o.pay, Sb.mk (Sb.kind o.side) (Sb.h o.side) (Sb.t o.side) (Sb.l o.side) (Sb.g o.side) (f.cb || f.sat) f.nb f.wr⟩)

/-- Bytes of the tile's slice, wrapping at its end. -/
def Fir.sliceKey (f : Fir) (byte : Nat) : Nat := tileKey f.s f.r f.tile byte

/-- An access that meets an uncorrectable word raises MACHINE_CHECK, once in a firing, which goes on (R215, R341, R357). -/
def Fir.meet (f : Fir) (key n : Nat) : Fir :=
  if f.struck then f
  else match f.s.poison.find? (fun p => decide (p < key + n) && decide (key < p + 8)) with
    | some p =>
      let id := ((teamOf f.s f.r).getD {}).id
      { f with s := engineCheck f.s id (sliceVa f.s id p), struck := true }
    | none => f

/-- One access of at most 8 aligned bytes at the slice port, single-copy atomic (R171, R339, R356): it finds performed what was released to
the tile's actors (R172). One that was made before gives what it gave then. -/
def Fir.access (f : Fir) (byte n : Nat) (check : Bool) (act : State → State × List Byte) : Fir × List Byte :=
  match f.got with
  | bs :: rest => ({ f with got := rest }, bs)
  | [] =>
    if f.stuck || f.more == 0 then ({ f with stuck := true }, [])
    else
      let f := { f with s := seen f.s f.r none (f.sliceKey byte) n }
      let f := if check then f.meet (f.sliceKey byte) n else f
      let x := act f.s
      ({ f with s := x.1, did := f.did ++ [x.2], more := f.more - 1 }, x.2)

def Fir.readUnit (f : Fir) (byte n : Nat) : Fir × List Byte := f.access byte n true (fun s => (s, readBytes s (f.sliceKey byte) n))

/-- A write; one that reads its ECC word first, or writes a plane, meets an uncorrectable one (R341, R357). -/
def Fir.writeUnit (f : Fir) (byte : Nat) (bs : List Byte) (check : Bool) : Fir :=
  (f.access byte bs.length check (fun s => (writeBytes s (f.sliceKey byte) bs, []))).1

/-- Granules of 8 bytes from a byte on. -/
def Fir.readUnits (f : Fir) (byte : Nat) : Nat → Fir × List Byte
  | 0 => (f, [])
  | n + 1 =>
    let x := f.readUnit byte 8
    let y := x.1.readUnits (byte + 8) n
    (y.1, x.2 ++ y.2)

/-- One line of the slice by its number (R343). -/
def Fir.line (f : Fir) (n : Nat) : Fir × Line :=
  let x := f.readUnits (64 * (n % 2048)) 8
  (x.1, BitVec.ofNat 512 (ofBytes x.2))

def Fir.putLine (f : Fir) (n : Nat) (v : Line) (check : Bool) : Fir :=
  (List.range 8).foldl (fun f k => f.writeUnit (64 * (n % 2048) + 8 * k) (((toBytes v 64).drop (8 * k)).take 8) check) f

/-- The line an operand gives: lane 0 as W32, modulo 2048; z gives line 0 (R343). -/
def Fir.lineOf (f : Fir) (code : Nat) : Nat := bitsN (f.src code) 0 32 % 2048

/-! ### Costs and durations -/

/-- GALLOP draw tokens of a word (R101). -/
def wordCost (w : Word) : Nat :=
  match Fw.op w with
  | 0x00 | 0x01 => 0
  | 0x02 => 1
  | 0x1E => 4
  | 0x38 | 0x39 | 0x3A | 0x3B => 6
  | 0x50 | 0x51 => 4
  | 0x52 | 0x53 => 12
  | 0x60 =>
    let c := match Ty.ofCode (Fw.ty w) with | some .e4m3 | some .e5m2 | some .px4 => 256 | some .px2 => 128 | _ => 512
    if bit w 16 then c / 2 + 16 else c
  | 0x61 => 64
  | 0x62 => 2
  | 0x63 => 32
  | 0x64 => 8
  | 0x65 => 4
  | 0x66 => 8
  | _ => 2

/-- Tile clocks of a word (R198, R321, R348–R354). -/
def wordClocks (w : Word) : Nat :=
  match Fw.op w with
  | 0x12 | 0x13 | 0x14 | 0x15 => if Fw.ty w == 14 then 2 else 1
  | 0x1E => Nat.log2 (wLanes w)
  | 0x38 | 0x39 | 0x3A | 0x3B => 4
  | 0x46 | 0x50 | 0x51 => 2
  | 0x52 | 0x53 => 4
  | 0x60 =>
    let c := match Ty.ofCode (Fw.ty w) with | some .e4m3 | some .e5m2 | some .px4 => 16 | some .px2 => 8 | _ => 32
    if bit w 16 then c / 2 else c
  | 0x61 => 24
  | 0x63 => ((if Fw.m w 0 4 == 0 then 16 else Fw.m w 0 4) * wWidth w + 15) / 16 + 1
  | 0x66 => 4
  | _ => 1

/-- A GALLOP cost in a gait (R101). -/
def gaitCost (g : BitVec 2) (c : Nat) : Nat := if g == 1 then (9 * c + 24) / 25 else c

/-- Clocks that n tile clocks take (R90). -/
def gaitClocks (g : BitVec 2) (n : Nat) : Nat := if g == 1 then 4 * n else n

end Sys2Proof.Machine
end

