-- ==== Sys2Proof/Machine/Vector.lean ====
section
/-! DEFINITION. Firing words on lanes: arithmetic, comparison, reduction, logic, shifts, moves, conversion and the functions of R329
(R322–R329). -/

namespace Sys2Proof.Machine

/-- Exact lane result of the arithmetic words on float values (R322). -/
def arithVal (op : Nat) (a b c : Val) : Val :=
  match op with
  | 0x10 => a.add b
  | 0x11 => a.add b.neg
  | 0x12 => a.mul b
  | 0x13 => (a.mul b).add c
  | 0x14 => (a.mul b).add c.neg
  | 0x15 => c.add (a.mul b).neg
  | 0x16 => a.abs
  | _ => a.neg

/-- The same on integers. -/
def arithInt (op : Nat) (a b c : Int) : Int :=
  match op with
  | 0x10 => a + b
  | 0x11 => a - b
  | 0x12 => a * b
  | 0x13 => a * b + c
  | 0x14 => a * b - c
  | 0x15 => c - a * b
  | 0x16 => if a < 0 then -a else a
  | _ => -a

/-- Lanes of three sources side by side. -/
def lanes3 (t : Ty) (a b c : Line) : List (Nat × Nat × Nat) := (lanesOf t a).zip ((lanesOf t b).zip (lanesOf t c))

/-- Minimum or maximum of a lane (R323). -/
def pickLane (t : Ty) (num wantMax : Bool) (a b : Nat) : Nat :=
  if t.isInt then
    let x := intLane t a
    let y := intLane t b
    if wantMax then (if x < y then b else a) else (if y < x then b else a)
  else
    let v := if wantMax then valMax num (decodeLane t a) (decodeLane t b) else valMin num (decodeLane t a) (decodeLane t b)
    encodeLane t t 0 false 0 v

/-- Whether a relation holds between two lanes (R324). -/
def cmpLane (t : Ty) (cc a b : Nat) : Bool :=
  let x := decodeLane t a
  let y := decodeLane t b
  let un := x.isNan || y.isNan
  let lt := if t.isInt then decide (intLane t a < intLane t b) else Val.lt false x y
  let gt := if t.isInt then decide (intLane t b < intLane t a) else Val.lt false y x
  match cc with
  | 0 => !un && !lt && !gt
  | 1 => un || lt || gt
  | 2 => !un && lt
  | 3 => !un && !gt
  | 4 => !un && gt
  | 5 => !un && !lt
  | _ => un

/-- One addition of a reduction. -/
def addLane (t : Ty) (rnd : Nat) (sat : Bool) (r : Nat) (a b : Nat) : Nat :=
  if t.isInt then narrowInt t sat (intLane t a + intLane t b) else roundFloat t rnd sat r ((decodeLane t a).add (decodeLane t b))

def pairUp : List Nat → List (Nat × Nat)
  | a :: b :: t => (a, b) :: pairUp t
  | _ => []

/-- The pairwise tree of R203, level by level; SR steps the LFSR once per addition. -/
def redTree (rnd : Nat) (g : Nat → Nat → Nat → Nat) : Nat → Word32 → List Nat → Nat × Word32
  | 0, l, xs => (xs.headD 0, l)
  | k + 1, l, xs =>
    let y := roundEach rnd (fun r (p : Nat × Nat) => g r p.1 p.2) l (pairUp xs)
    redTree rnd g k y.2 y.1

/-- A shift of one lane of w bits (R326). -/
def shiftLane (op w a k : Nat) : Nat :=
  match op with
  | 0x24 => if w ≤ k then 0 else a * 2 ^ k % 2 ^ w
  | 0x25 => if w ≤ k then 0 else a / 2 ^ k
  | _ =>
    let neg := decide (2 ^ (w - 1) ≤ a)
    if w ≤ k then (if neg then 2 ^ w - 1 else 0)
    else if neg then 2 ^ w - 1 - (2 ^ w - 1 - a) / 2 ^ k else a / 2 ^ k

/-- The lane value of VLDI (R327). -/
def ldiLane (t : Ty) (im : Nat) : Nat :=
  if t == .fp32 then im * 65536
  else if t.signed then wrapInt t.width (if im ≥ 32768 then (im : Int) - 65536 else im)
  else im

/-- A lane read at width w as the type's class: signed for INT, whole for W. -/
def wideLane (t : Ty) (w c : Nat) : Int := if t.signed && c ≥ 2 ^ (w - 1) then (c : Int) - (2 ^ w : Nat) else c

/-- VCVT (R328). -/
def runCvt (f : Fir) (w : Word) (t u : Ty) : Fir :=
  let ns := t.lanes
  let nd := u.lanes
  let part := Fw.m w 4 2
  let src := lanesOf t (f.src (Fw.a w))
  let take := if nd < ns then (src.drop (part * nd)).take nd else src
  let rnd := if roundsBetween t u then Fw.rnd w else 0
  let y := roundEach rnd (fun r c => encodeLane t u rnd (Fw.sat w) r (decodeLane t c)) f.t.lfsr take
  let old := if Fw.dst w < 16 && ns < nd then lanesOf u (f.src (Fw.dst w)) else List.replicate nd 0
  let res := if ns < nd then old.take (part * ns) ++ y.1 ++ old.drop (part * ns + ns) else y.1
  ({ f with t := { f.t with lfsr := y.2 } }).put (Fw.dst w) (ofLanes u.width res)

/-- A word whose result is computed lane by lane with rounding. -/
def runLanes (f : Fir) (w : Word) (t : Ty) (rnd : Nat) (g : Nat → Nat × Nat × Nat → Nat) : Fir :=
  let y := roundEach rnd g f.t.lfsr (lanes3 t (f.src (Fw.a w)) (f.src (Fw.b w)) (f.src (Fw.c w)))
  ({ f with t := { f.t with lfsr := y.2 } }).put (Fw.dst w) (ofLanes t.width y.1)

/-- The shift amount of VSCALE, clamped to where every format has overflowed or vanished. -/
def scaleBy (w : Word) (t : Ty) (b : Nat) : Int :=
  let k : Int := if bit w 16 then (BitVec.ofNat 16 (Fw.imm w)).toInt else (if b ≥ 2 ^ (t.width - 1) then (b : Int) - (2 ^ t.width : Nat) else b)
  clampInt (-4096) 4096 k

/-- Words 0x10–0x3B with a laned type. -/
def runTyped (f : Fir) (w : Word) (t : Ty) : Fir :=
  let op := Fw.op w
  let rnd := if t.isInt then 0 else Fw.rnd w
  let sat := Fw.sat w
  let n := t.lanes
  let A := f.src (Fw.a w)
  let B := f.src (Fw.b w)
  let num := bit w 16
  match op with
  | 0x18 => runLanes f w t 0 (fun _ x => pickLane t num false x.1 x.2.1)
  | 0x19 => runLanes f w t 0 (fun _ x => pickLane t num true x.1 x.2.1)
  | 0x1A => runLanes f w t 0 (fun _ x => pickLane t num false (pickLane t num true x.1 x.2.1) x.2.2)
  | 0x1B => runLanes f w t rnd (fun r x => roundFloat t rnd sat r ((decodeLane t x.1).scale (scaleBy w t x.2.1)))
  | 0x1C => runLanes f w t 0 (fun _ x => if cmpLane t (Fw.m w 0 3) x.1 x.2.1 then 2 ^ t.width - 1 else 0)
  | 0x1D => runLanes f w t 0 (fun _ x => if x.2.2 != 0 then x.1 else x.2.1)
  | 0x1E =>
    let rop := Fw.m w 0 2
    let rr := if rop == 0 then rnd else 0
    let g (r a b : Nat) : Nat := if rop == 0 then addLane t rnd sat r a b else pickLane t (bit w 18) (rop == 1) a b
    let y := redTree rr g (Nat.log2 n) f.t.lfsr (lanesOf t A)
    ({ f with t := { f.t with lfsr := y.2 } }).put (Fw.dst w) (ofLanes t.width [y.1])
  | 0x24 | 0x25 | 0x26 => runLanes f w t 0 (fun _ x => shiftLane op t.width x.1 (if num then Fw.imm w else x.2.1))
  | 0x31 => f.put (Fw.dst w) (ofLanes t.width (List.replicate n (ldiLane t (Fw.imm w))))
  | 0x32 =>
    let la := lanesOf t A
    f.put (Fw.dst w) (ofLanes t.width ((lanesOf t B).map (fun k => la.getD (k % n) 0)))
  | 0x33 => f.put (Fw.dst w) (ofLanes t.width (List.replicate n ((lanesOf t A).getD (Fw.imm w) 0)))
  | 0x34 =>
    let q := (if num then Fw.imm w else (lanesOf t B).headD 0) % n
    let la := lanesOf t A
    f.put (Fw.dst w) (ofLanes t.width ((List.range n).map (fun e => la.getD ((e + q) % n) 0)))
  | 0x35 =>
    let wide (v : Line) : List Nat := (natLanes (2 * t.width) v.toNat (n / 2)).map (fun c => narrowInt t sat (wideLane t (2 * t.width) c))
    f.put (Fw.dst w) (ofLanes t.width (wide A ++ wide B))
  | 0x36 =>
    let half := ((lanesOf t A).drop (if num then n / 2 else 0)).take (n / 2)
    f.put (Fw.dst w) (ofLanes (2 * t.width) (half.map (fun c => wrapInt (2 * t.width) (wideLane t t.width c))))
  | 0x37 => (match Ty.ofCode (Fw.m w 0 4) with | some u => runCvt f w t u | none => f)
  | 0x38 => runLanes f w t rnd (fun r x => roundFloat t rnd sat r (valRcp (decodeLane t x.1)))
  | 0x39 => runLanes f w t rnd (fun r x => roundFloat t rnd sat r (valRsq (decodeLane t x.1)))
  | 0x3A => runLanes f w t rnd (fun r x => roundFloat t rnd sat r (valExp2 (decodeLane t x.1)))
  | 0x3B => runLanes f w t rnd (fun r x => roundFloat t rnd sat r (valLog2 (decodeLane t x.1)))
  | _ =>
    if t.isInt then runLanes f w t 0 (fun _ x => narrowInt t sat (arithInt op (intLane t x.1) (intLane t x.2.1) (intLane t x.2.2)))
    else runLanes f w t rnd (fun r x => roundFloat t rnd sat r (arithVal op (decodeLane t x.1) (decodeLane t x.2.1) (decodeLane t x.2.2)))

/-- Words 0x10–0x3B. -/
def runVector (f : Fir) (w : Word) : Fir :=
  let A := f.src (Fw.a w)
  let B := f.src (Fw.b w)
  match Fw.op w with
  | 0x20 => f.put (Fw.dst w) (A &&& B)
  | 0x21 => f.put (Fw.dst w) (A ||| B)
  | 0x22 => f.put (Fw.dst w) (A ^^^ B)
  | 0x23 => f.put (Fw.dst w) (~~~A)
  | 0x30 => f.put (Fw.dst w) (f.src (Fw.a w) (Fw.imm w % 8))
  | _ => (match Ty.ofCode (Fw.ty w) with | some t => runTyped f w t | none => f)

end Sys2Proof.Machine
end

