-- ==== Sys2Proof/Machine/Flow.lean ====
section
/-! DEFINITION. Firing words for weights, tokens and markers, windows, routing, chains, the slice, gait and halting (R330–R340). -/

namespace Sys2Proof.Machine

/-- Lane 0 of a, read as W32, or imm16 when IMM = 1. -/
def srcOrImm (f : Fir) (w : Word) (imm : Bool) (code : Nat) : Nat := if imm then Fw.imm w else bitsN (f.src code) 0 32

/-- WGT, WSET, WMUL (R330). -/
def runWeight (f : Fir) (w : Word) : Fir :=
  let v := srcOrImm f w (bit w 16) (Fw.a w)
  match Fw.op w with
  | 0x40 => { f with wr := min v 65535, sat := f.sat || decide (65535 < v) }
  | 0x42 => { f with wr := min (f.wr * v) 65535, sat := f.sat || decide (65535 < f.wr * v) }
  | _ => { f with wset := some (max 1 (min v 255)) }

/-- EMIT (R331). -/
def runEmit (f : Fir) (w : Word) : Fir :=
  if bit w 17 && bitsN (f.src (Fw.b w)) 0 32 == 0 then f
  else f.data (Fw.dst w - 40) (if bit w 16 then 1 else 0) (f.src (Fw.a w))

/-- MARKOUT (R332). -/
def runMarkout (f : Fir) (w : Word) : Fir :=
  let n := Fw.dst w - 40
  match Fw.m w 0 4 with
  | 0 => (match (f.head (Fw.a w - 32)).head? with
    | some t => if Sb.isMark t.side then f.own n t else f
    | none => f)
  | 2 => f.own n (markTok 2 0)
  | 4 => f.own n (markTok 4 (Fw.m w 4 3 * 16 + Fw.imm w * 65536))
  | _ => f.own n (markTok 6 (bitsN (f.src (Fw.a w)) 0 64 * 2 ^ 64))

/-- GAPCHK (R333). -/
def runGapchk (f : Fir) (w : Word) : Fir :=
  let lanes : List Nat := match (f.head (Fw.a w - 32)).head? with
    | none => []
    | some t =>
      let p := t.pay
      if !Sb.isMark t.side then List.replicate 9 0 ++ [t.side.toNat]
      else if t.mtype != 1 then t.mtype :: (List.replicate 8 0 ++ [t.side.toNat])
      else [1, bitsN p 32 32, bitsN p 64 32, bitsN p 96 32, bitsN p 192 32, bitsN p 224 32, bitsN p 144 32, bitsN p 176 16,
            if bit p 4 then 1 else 0, t.side.toNat]
  f.put (Fw.dst w) (ofLanes 32 lanes)

def sat32 (n : Nat) : Nat := min n (2 ^ 32 - 1)

/-- WIN (R334). -/
def runWin (f : Fir) (w : Word) : Fir :=
  match Ty.ofCode (Fw.ty w) with
  | none => f
  | some t =>
    let d := Fw.dst w
    let out := Fw.m w 0 3
    let size := srcOrImm f w (bit w 19) (Fw.b w)
    let h := (f.head (Fw.a w - 32)).head?
    let x := f.act
    let mt := match h with | some k => if Sb.isMark k.side then k.mtype else 0 | none => 0
    let f := match h with
      | none => f
      | some k =>
        if !Sb.isMark k.side then
          let wt := Sb.w k.side
          let y := roundEach (Fw.rnd w) (fun r (p : Nat × Nat) =>
            roundFloat t (Fw.rnd w) (Fw.sat w) r ((decodeLane t p.1).add ((Val.ofInt wt).mul (decodeLane t p.2)))) f.t.lfsr
            ((lanesOf t (f.src d)).zip (lanesOf t k.pay))
          { f with t := { f.t with lfsr := y.2, v := f.t.v.put d (ofLanes t.width y.1) }
                   act := { x with ww := sat32 (x.ww + wt), nrec := sat32 (x.nrec + 1) } }
        else if mt == 1 then
          let g := gapOf k.pay
          { f with act := { x with ww := sat32 (x.ww + g.wt - g.cwt), wg := true, ngap := sat32 (x.ngap + g.cnt) } }
        else f
    let x := f.act
    let isEnd := mt == 2
    let cl := if isEnd then (if decide (0 < x.ww) || decide (0 < x.nrec) then 2 else 0) else if decide (size ≤ x.ww) then 1 else 0
    let f := { f with t := { f.t with v := f.t.v.put (d + 1) (ofLanes 32 [cl, x.ww, if x.wg then 1 else 0, x.nrec, x.ngap]) } }
    let f := if cl == 0 then f
      else
        let f := f.own out ⟨f.src d, Sb.mk 0 true true false false (decide (65535 < x.ww)) false (min x.ww 65535)⟩
        { f with t := { f.t with v := f.t.v.put d 0 }, act := { f.act with ww := 0, wg := false, nrec := 0, ngap := 0 } }
    if isEnd then f.own out (markTok 2 0) else f

/-- ROUTE (R335). -/
def runRoute (f : Fir) (w : Word) : Fir :=
  let q := f.head (Fw.m w 0 3)
  let k := Fw.imm w % 16
  let base := Fw.m w 3 3
  let sel := bitsN (f.src (Fw.a w)) 0 32
  let fill := bit w 22
  match q with
  | [] => f
  | t :: _ =>
    if Sb.isMark t.side then (List.range k).foldl (fun f j => f.own (base + j) t) f
    else
      let wt := Sb.w t.side
      if sel < k then
        let f := q.foldl (fun f x => f.own (base + sel) x) f
        if fill then (List.range k).foldl (fun f j => if j == sel then f else f.own (base + j) (gapTok { cnt := 1, wt := wt, cwt := wt })) f else f
      else if fill then (List.range k).foldl (fun f j => f.own (base + j) (gapTok { cnt := 1, wt := wt })) f
      else f

/-- CTR and IDX (R336). -/
def runChain (f : Fir) (w : Word) : Fir :=
  let ch := Fw.m w 0 2
  let f := { f with chains := f.chains ++ [ch] }
  if Fw.op w == 0x49 then f.put (Fw.dst w) (f.start.getD ch {}).token else f

/-- The slice address of LDS and STS (R337). -/
def slotOf (f : Fir) (w : Word) : Nat := (bitsN (f.src (Fw.a w)) 0 32 + 64 * Fw.imm w) % 2 ^ 17 / 64

/-- Byte of element e (R338). -/
def elemByte (f : Fir) (w : Word) (e : Nat) : Nat :=
  (64 * Fw.imm w + bitsN (f.src (Fw.a w)) (32 * e) 32 * (wWidth w / 8)) % 2 ^ 17

/-- LDS, STS, GATHER, SCATTER (R337, R338, R339, R341). -/
def runSlice (f : Fir) (w : Word) : Fir :=
  let bytes := wWidth w / 8
  match Fw.op w with
  | 0x50 =>
    let x := f.line (slotOf f w)
    x.1.put (Fw.dst w) x.2
  | 0x51 => f.putLine (slotOf f w) (f.src (Fw.b w)) false
  | 0x52 =>
    let y := (List.range 16).foldl (fun (acc : Fir × List Nat) e =>
      let x := acc.1.readUnit (elemByte f w e) bytes
      (x.1, acc.2 ++ [ofBytes x.2])) (f, [])
    y.1.put (Fw.dst w) (ofLanes (wWidth w) y.2)
  | _ =>
    let b := f.src (Fw.b w)
    let c := f.src (Fw.c w)
    (List.range 16).foldl (fun g e =>
      if bit w 16 && bitsN c (32 * e) 32 == 0 then g
      -- the read-modify-write of an ECC word meets an uncorrectable one (R341)
      else g.writeUnit (elemByte f w e) (toBytes (BitVec.ofNat 64 (bitsN b (wWidth w * e) (wWidth w))) bytes) true) f

/-- Words 0x00–0x02 and 0x40–0x53. -/
def runFlow (f : Fir) (w : Word) : Fir :=
  match Fw.op w with
  | 0x01 => { f with halt := true }
  | 0x02 => { f with gait := some (BitVec.ofNat 2 (Fw.imm w % 4)) }
  | 0x40 | 0x41 | 0x42 => runWeight f w
  | 0x43 => runEmit f w
  | 0x44 => runMarkout f w
  | 0x45 => runGapchk f w
  | 0x46 => runWin f w
  | 0x47 => runRoute f w
  | 0x48 | 0x49 => runChain f w
  | 0x50 | 0x51 | 0x52 | 0x53 => runSlice f w
  | _ => f

end Sys2Proof.Machine
end

