-- ==== Sys2Proof/Machine/Matrix.lean ====
section
/-! DEFINITION. The matrix array (R197–R202, R342–R357): the check before a firing, MMA, PLANE, SCALESET, ACCOUT, ACCRD, ACCZ, RADD. -/

namespace Sys2Proof.Machine

/-! ### Plane form (R197) -/

/-- Sign planes, exponent planes and significand planes of a type. -/
def planes : Ty → Nat × Nat × Nat
  | .bf16 => (1, 8, 8) | .fp16 => (1, 5, 11) | .e4m3 => (1, 4, 4) | .e5m2 => (1, 5, 3)
  | .px2 => (1, 0, 2) | .px4 => (1, 0, 4) | .px7 => (1, 0, 7) | .int8 => (0, 0, 8) | .w8 => (0, 0, 8)
  | _ => (0, 0, 0)

/-- Lines of a block: header, scale line, planes; the metadata line of a compressed block follows (R348). -/
def planeLines (t : Ty) : Nat := let p := planes t; 1 + (if t.isPx then 1 else 0) + p.1 + p.2.1 + p.2.2

/-- The header line. -/
def planeHeader (t : Ty) (sp : Bool) : Line :=
  BitVec.ofNat 512 (t.code + 256 * (if sp then 1 else 0) + 65536 * (planes t).2.1 + 2 ^ 24 * (planes t).2.2)

/-- Planes of one element: its bits from the sign plane up, with the hidden bit explicit. -/
def elemPlanes (t : Ty) (code : Nat) : List Bool :=
  let p := planes t
  let take (v n : Nat) : List Bool := (List.range n).map (fun k => v / 2 ^ k % 2 == 1)
  if t.isPx then (code / 2 ^ t.pxM % 2 == 1) :: take (code % 2 ^ t.pxM) p.2.2
  else if t.isFloat then
    let f := t.fmt
    let ex := code / 2 ^ f.mb % 2 ^ f.eb
    (code / 2 ^ (f.eb + f.mb) % 2 == 1) :: (take ex f.eb ++ take (code % 2 ^ f.mb) f.mb ++ [ex != 0])
  else take code 8

/-- An element read back from its planes (the hidden bit follows from the exponent unless the planes were stored otherwise). -/
def planesVal (t : Ty) (bs : List Bool) (e mu : Nat) (row : Nat) : Val :=
  let num (l : List Bool) : Nat := packNat 1 (l.map (fun b => if b then 1 else 0))
  if t.isPx then
    let s := bs.headD false
    let mag := num (bs.drop 1)
    pxElem t.pxM e mu row (mag + (if s then 2 ^ t.pxM else 0))
  else if t.isFloat then
    let f := t.fmt
    let s := bs.headD false
    let ex := num ((bs.drop 1).take f.eb)
    let sig := num (bs.drop (1 + f.eb))
    let fr := sig % 2 ^ f.mb
    if f.ieee && ex == 2 ^ f.eb - 1 then (if fr == 0 then .inf s else .nan)
    else if !f.ieee && ex == 2 ^ f.eb - 1 && fr == 2 ^ f.mb - 1 then .nan
    else .fin s sig ((max ex 1 : Nat) - (f.bias : Int) - f.mb)
  else decodeLane t (num bs)

/-- First and second index of a metadata nibble (R202). -/
def nibble (meta' : Line) (g n : Nat) : Nat := bitsN meta' (4 * (32 * g + n)) 4
def legalNibble (v : Nat) : Bool := v == 0x4 || v == 0x8 || v == 0xC || v == 0x9 || v == 0xD || v == 0xE

/-! ### The check before a firing (R346, R347) -/

/-- TVAL of a failed check (R347), or none. -/
def metaBad (w : Word) (lb : Nat) (hdr meta' : Line) : Option Word :=
  match Ty.ofCode (Fw.ty w) with
  | none => none
  | some t =>
    if hdr != planeHeader t (bit w 16) then
      some (BitVec.ofNat 64 (2 ^ 60 + bitsN hdr 16 8 * 2 ^ 32 + bitsN hdr 8 8 * 2 ^ 24 + bitsN hdr 0 8 * 2 ^ 16 + lb))
    else if !bit w 16 then none
    else ((List.range 128).find? (fun k => !legalNibble (nibble meta' (k / 32) (k % 32)))).map (fun k =>
      BitVec.ofNat 64 (nibble meta' (k / 32) (k % 32) * 2 ^ 52 + k / 32 * 2 ^ 50 + k % 32 * 2 ^ 40 + lb))

/-- LB of an MMA word (R344). -/
def mmaLine (f : Fir) (w : Word) : Nat := (Fw.imm w + f.lineOf (Fw.b w)) % 2048

/-- Check every MMA word of the block, and keep what the checks read. -/
def checkMmas (f : Fir) : List Word → Fir × Option Word
  | [] => (f, none)
  | w :: ws =>
    if Fw.op w != 0x60 then checkMmas f ws
    else match Ty.ofCode (Fw.ty w) with
      | none => checkMmas f ws
      | some t =>
        let lb := mmaLine f w
        let x := f.line lb
        let y := if bit w 16 then x.1.line (lb + planeLines t) else (x.1, 0)
        let f := { y.1 with meta' := y.1.meta' ++ [(lb, x.2, y.2)] }
        match metaBad w lb x.2 y.2 with
        | some tv => (f, some tv)
        | none => checkMmas f ws

/-! ### MMA -/

/-- The tokens of the A operand and whether the word has one: none when the endpoint holds a marker (R345). -/
def mmaA (f : Fir) (w : Word) (t : Ty) : Option (List Line) :=
  let n := mmaToks (Fw.ty w)
  if Fw.a w < 16 then some ((List.range (if t.isPx then n - 1 else n)).map (fun k => f.t.v.getD (Fw.a w + k) 0))
  else
    let e := Fw.a w - 32
    if f.fill == some e then some (List.replicate n (f.c.consts.getD (Hdr.fillc f.act.hdr) 0))
    else if f.mark == some e then none
    else some ((List.range n).map (fun k => f.src (Fw.a w) k))

/-- Row i of A: 16 values; PX rows take their scale from the latch. -/
def rowA (t : Ty) (latch : BitVec 256) (pay : Nat) (i : Nat) : List Val :=
  if t.isPx then
    let b := PxBlock.ofNat t.pxM (pay / 2 ^ (t.width * i) % 2 ^ t.width)
    pxVals t.pxM (bitsN latch (16 * i) 8) (bitsN latch (16 * i + 8) 8) b.fields
  else (natLanes t.width (pay / 2 ^ (t.width * 16 * i)) 16).map (decodeLane t)

/-- Element of plane row k, column n. -/
def planeElem (t : Ty) (ps : List Line) (scale : Line) (k n row : Nat) : Val :=
  planesVal t (ps.map (fun p => bit p (k * 32 + n))) (bitsN scale (16 * n) 8) (bitsN scale (16 * n + 8) 8) row

/-- Column j of B: for each k the value, or none when the metadata omits it (R202). -/
def colB (t : Ty) (sp : Bool) (ps : List Line) (scale meta' : Line) (j : Nat) : List (Option Val) :=
  if !sp then (List.range 16).map (fun k => some (planeElem t ps scale k j k))
  else (List.range 16).map (fun k =>
    let g := k / 4
    let v := nibble meta' g j
    if v / 4 == k % 4 then some (planeElem t ps scale (2 * g + 1) j k)
    else if v % 4 == k % 4 then some (planeElem t ps scale (2 * g) j k)
    else none)

/-- One output of a float or PX MMA (R199, R200). -/
def mmaFloat (sat badScale : Bool) (old : Nat) (row : List Val) (col : List (Option Val)) : Nat :=
  let prods := (row.zip col).filterMap (fun p => p.2.map (Val.mul p.1))
  let sum := prods.foldl Val.add (decodeLane .fp32 old)
  if badScale then Ty.fp32.fmt.nanCode else roundFloat .fp32 0 sat 0 sum

/-- One output of an integer MMA (R201). -/
def mmaInt (sat : Bool) (old : Nat) (row : List Val) (col : List (Option Val)) : Nat :=
  let num : Val → Int := fun v => match v with | .fin s n _ => if s then -(n : Int) else n | _ => 0
  let sum := ((row.zip col).map (fun p => match p.2 with | some b => num p.1 * num b | none => 0)).sum
  narrowInt .int32 sat (intLane .int32 old + sum)

def bankWord (t : Tile) (bank i j : Nat) : Nat := (t.acc.getD (bank * 512 + 32 * i + j) 0).toNat

/-- The 512 words of a bank. -/
def bankWords (t : Tile) (bank : Nat) : List Word32 := (List.range 512).map (fun k => t.acc.getD (bank * 512 + k) 0)

def setBank (t : Tile) (bank : Nat) (ws : List Nat) : Tile := { t with acc := putBank t.acc bank (ws.map (BitVec.ofNat 32)) }

/-- Read n lines from a line number. -/
def readLines (f : Fir) (lb : Nat) : Nat → Fir × List Line
  | 0 => (f, [])
  | n + 1 =>
    let x := f.line lb
    let y := readLines x.1 (lb + 1) n
    (y.1, x.2 :: y.2)

/-- MMA (R345, R346). -/
def runMma (f : Fir) (w : Word) : Fir :=
  match Ty.ofCode (Fw.ty w), f.meta' with
  | some t, (lb, _, meta') :: rest =>
    let f := { f with meta' := rest }
    match mmaA f w t with
    | none => f
    | some toks =>
      let fromIn := decide (16 ≤ Fw.a w)
      let latch : BitVec 256 := if t.isPx && fromIn then (toks.getD 0 0).setWidth 256 else f.t.latch
      let data := if t.isPx && fromIn then toks.drop 1 else toks
      let f := { f with t := { f.t with latch := latch } }
      let px := if t.isPx then 1 else 0
      let x := readLines f (lb + 1) (planeLines t - 1)
      if x.1.stuck then x.1 else
      let scale := if t.isPx then x.2.getD 0 0 else 0
      let ps := x.2.drop px
      let f := x.1
      let pay := joinPay data
      let rows := (List.range 16).map (rowA t latch pay)
      let cols := (List.range 32).map (colB t (bit w 16) ps scale meta')
      let bank := Fw.dst w - 48
      let out := (List.range 512).map (fun k =>
        let i := k / 32
        let j := k % 32
        let old := bankWord f.t bank i j
        let row := rows.getD i []
        let col := cols.getD j []
        let bad := t.isPx && (bitsN latch (16 * i) 8 == 255 || bitsN scale (16 * j) 8 == 255)
        if t.isInt then mmaInt (Fw.sat w) old row col else mmaFloat (Fw.sat w) bad old row col)
      { f with t := setBank f.t bank out }
  | _, _ => f

/-! ### PLANE, SCALESET and the banks -/

/-- Lines of the row form (R349). -/
def rowLines (t : Ty) : Nat := match t with | .bf16 | .fp16 => 16 | .px2 => 4 | .px4 => 6 | .px7 => 9 | _ => 8

/-- Element (k, n) of a row form as its code; a PX element's field. -/
def rowElem (t : Ty) (v k n : Nat) : Nat :=
  if t.isPx then v / 2 ^ (t.width * n + 16 + (t.pxM + 1) * k) % 2 ^ (t.pxM + 1)
  else v / 2 ^ (t.width * (32 * k + n)) % 2 ^ t.width

/-- PLANE (R349). -/
def runPlane (f : Fir) (w : Word) : Fir :=
  match Ty.ofCode (Fw.ty w) with
  | none => f
  | some t =>
    let sp := bit w 16
    let ls := f.lineOf (Fw.a w)
    let ld := (Fw.imm w + f.lineOf (Fw.b w)) % 2048
    let x := readLines f ls (rowLines t)
    let y := if sp then x.1.line (ls + rowLines t) else (x.1, 0)
    if y.1.stuck then y.1 else
    let v := joinPay x.2
    let p := planes t
    let nplanes := p.1 + p.2.1 + p.2.2
    let rows := if sp then 8 else 16
    let srcRow (k n : Nat) : Nat := if sp then 4 * (k / 2) + (if k % 2 == 0 then nibble y.2 (k / 2) n % 4 else nibble y.2 (k / 2) n / 4) else k
    let elems := (List.range (rows * 32)).map (fun q => elemPlanes t (rowElem t v (srcRow (q / 32) (q % 32)) (q % 32)))
    let plane (b : Nat) : Line := BitVec.ofNat 512 (packNat 1 (elems.map (fun e => if e.getD b false then 1 else 0)))
    let scale : Line := BitVec.ofNat 512 (packNat 16 ((List.range 32).map (fun n => v / 2 ^ (t.width * n) % 65536)))
    let out := planeHeader t sp :: ((if t.isPx then [scale] else []) ++ (List.range nplanes).map plane ++ (if sp then [y.2] else []))
    ((List.range out.length).zip out).foldl (fun f l => f.putLine (ld + l.1) l.2 true) y.1

/-- SCALESET (R350). -/
def runScaleset (f : Fir) (w : Word) : Fir := { f with t := { f.t with latch := (f.src (Fw.a w)).setWidth 256 } }

/-- ACCOUT (R351): it neither emits nor clears in a marker firing. -/
def runAccout (f : Fir) (w : Word) : Fir :=
  match Ty.ofCode (Fw.ty w) with
  | none => f
  | some u =>
    if f.mark.isSome then f
    else
      let nr := if Fw.m w 0 4 == 0 then 16 else Fw.m w 0 4
      let bank := Fw.a w - 48
      let src : Ty := if bit w 20 then .int32 else .fp32
      let first := Fw.imm w % 16 + bitsN (f.src (Fw.b w)) 0 32
      let rows := (List.range nr).map (fun j => (first + j) % 16)
      let words := rows.flatMap (fun i => (List.range 32).map (fun j => bankWord f.t bank i j))
      let rnd := if roundsBetween src u then Fw.rnd w else 0
      let y := roundEach rnd (fun r c => encodeLane src u rnd (Fw.sat w) r (decodeLane src c)) f.t.lfsr words
      let toks := (chunks u.lanes y.1).map (ofLanes u.width)
      let ws := bankWords f.t bank
      let ws := if bit w 21 then (List.range 512).map (fun k => if rows.contains (k / 32) then 0 else (ws.getD k 0).toNat) else ws.map BitVec.toNat
      let f := { f with t := setBank { f.t with lfsr := y.2 } bank ws }
      toks.foldl (fun f p => f.put (Fw.dst w) p) f

/-- ACCRD (R352). -/
def runAccrd (f : Fir) (w : Word) : Fir :=
  let h := (Fw.imm w % 32 + bitsN (f.src (Fw.b w)) 0 32) % 32
  f.put (Fw.dst w) (ofLanes 32 ((List.range 16).map (fun j => bankWord f.t (Fw.a w - 48) (h / 2) (16 * (h % 2) + j))))

/-- ACCZ (R353). -/
def runAccz (f : Fir) (w : Word) : Fir :=
  let bank := Fw.dst w - 48
  let ws := ((List.range 512).zip (bankWords f.t bank)).map (fun x => if Fw.imm w / 2 ^ (x.1 / 32) % 2 == 1 then 0 else x.2)
  { f with t := { f.t with acc := putBank f.t.acc bank ws } }

/-- RADD (R354): sent at the end of the firing. -/
def runRadd (f : Fir) (w : Word) : Fir := { f with radd := f.radd ++ [(Fw.imm w % 64, Fw.imm w / 256 % 4, Fw.a w)] }

/-- Words 0x60–0x66. -/
def runMatrix (f : Fir) (w : Word) : Fir :=
  match Fw.op w with
  | 0x60 => runMma f w
  | 0x61 => runPlane f w
  | 0x62 => runScaleset f w
  | 0x63 => runAccout f w
  | 0x64 => runAccrd f w
  | 0x65 => runAccz f w
  | 0x66 => runRadd f w
  | _ => f

/-- One firing word (R115, R316); none begins while an access of the one before it is to come. -/
def runWord (f : Fir) (w : Word) : Fir :=
  if f.stuck then f else
  let f := f.readWt w
  let op := Fw.op w
  let g := if 0x60 ≤ op then runMatrix f w else if 0x10 ≤ op && op < 0x40 then runVector f w else runFlow f w
  { g with clocks := g.clocks + wordClocks w }

end Sys2Proof.Machine
end

