-- ==== Sys2Proof/Machine/Control.lean ====
section
/-! DEFINITION. Control (R291): TRAP, RTE, YIELD, BKPT; strands and tasks (R70–R73, R285–R287); the Farrier (R289, R290, R373); the
debugger's mailbox commands (R224); faults the firmware forwards (R162, R204). -/

namespace Sys2Proof.Machine

/-! ### TRAP, RTE, YIELD, BKPT -/

/-- TRAP (R291): SYSCALL to the firmware, which resumes at TPC + 4 with a COMPLETE entry for g[d]. -/
def execTrap (_d _a _b : Reg) (s : State) : Out' :=
  runStep (fun s => toFirmware s (me s) { code := 0x09, tval := s.cur.insn.setWidth 64 } s.cur.pc (nextPc s) (self s).traps.replay) s

def bytesWords : List Byte → Nat → List Word
  | _, 0 => []
  | l, n + 1 => BitVec.ofNat 64 (ofBytes (l.take 8)) :: bytesWords (l.drop 8) n

/-- A replay entry of a frame (R209). -/
def frameEntry (ws : List Word) (n : Nat) : Entry :=
  { pc := ws.getD (8 + 4 * n) 0, insn := bits (ws.getD (9 + 4 * n) 0) 0 32, st := bits (ws.getD (9 + 4 * n) 0) 32 3
    opa := ws.getD (10 + 4 * n) 0, opb := ws.getD (11 + 4 * n) 0 }

/-- RETURN FROM AN EXCEPTION (R210): INH := 0, the mode recorded at byte 56, the entries re-injected in order, then fetch from RPC;
RPC = 0 leaves the strand IDLE after them. -/
def returnFrame (s : State) (i : Nat) (ws : List Word) (rtePc : Word) (more : List Entry) : State :=
  let ents := (List.range (bitsN (ws.getD 0 0) 8 4)).map (frameEntry ws) ++ more
  let rpc := ws.getD 6 0
  let idle := ents.isEmpty && rpc == 0
  let s := updStrand s i (fun st =>
    { st with
      pc := rpc
      hold := none
      run := if idle then .idle else .ready
      spr := { st.spr with inh := false, svm := bit (ws.getD 7 0) 1 }
      traps := { st.traps with replay := ents, idleAfter := rpc == 0 && !ents.isEmpty, rtePc := rtePc, stepDue := false, stopDue := false } })
  if idle then tryRetire s ((teamOf s (i / 4)).getD {}).id else s

/-- Read n blocks of 64 bytes as the strand's own loads. -/
def withBlocks (s : State) (va : Word) (acc : List Byte) (cont : List Byte → State → State) : Nat → State
  | 0 => cont acc s
  | n + 1 => withKey s va 64 .read (fun key s =>
      let x := loadBytes s (me s) key 64
      withBlocks x.2 (va + 64) (acc ++ x.1) cont n)

/-- Read n blocks of the frame at their home, behind the strand's own stores to them: the re-injection is no load of the strand (log 15). -/
def withFrame (s : State) (va : Word) (acc : List Byte) (cont : List Byte → State → State) : Nat → State
  | 0 => cont acc s
  | n + 1 => withKey s va 64 .read (fun key s =>
      let s := performOwn s (me s) key 64
      withFrame s (va + 64) (acc ++ readBytes s key 64) cont n)

/-- RTE (R210, R291). -/
def execRte (s : State) : Out' :=
  runStep (fun s =>
    let i := me s
    let more := (self s).traps.replay
    withFrame s (self s).spr.tframe [] (fun bs s =>
      let ws := bytesWords bs 40
      if userMode s && bit (ws.getD 7 0) 1 then trapPrivileged s
      else if decide (8 < bitsN (ws.getD 0 0) 8 4) then trapReserved s
      else stepOrWatch (returnFrame s i ws s.cur.pc more) i 0) 5) s

/-- YIELD (R291): the next issue turn passes on. -/
def execYield (s : State) : Out' :=
  runStep (fun s => advance (updSelf s (fun st => { st with yielded := true }))) s

/-- BKPT (R204, R291). -/
def execBkpt (s : State) : Out' :=
  runStep (fun s => raiseSync s 0x07 (s.cur.insn.setWidth 64) false false) s

/-! ### Strands and tasks -/

/-- A job card that R71 admits. -/
def cardOf (ws : List Word) : Option Card :=
  let w (n : Nat) : Word := ws.getD n 0
  let rsz := bitsN (w 2) 32 16
  if bitsN (w 1) 0 3 != 0 || bitsN (w 2) 51 13 != 0 || decide (rsz < 8) || decide (4096 < rsz) || rsz % 8 != 0 || bitsN (w 2) 0 32 == 0
      || w 5 != 0 || w 6 != 0 || w 7 != 0 then none
  else some { entry := w 0, args := w 1, retry := bitsN (w 2) 48 3, rsz := rsz, n := bitsN (w 2) 0 32, jdone := w 3, jstat := w 4
              remaining := bitsN (w 2) 0 32 }

/-- A refusal word: bit 63 and a reason. -/
def refusal (n : Nat) : Word := BitVec.ofNat 64 (2 ^ 63 + n)

/-- STRAND (R285): scope 0 starts the lowest-numbered other IDLE strand; scope 2 posts a job card. -/
def execStrand (d a b : Reg) (c : BitVec 3) (s : State) : Out' :=
  runStep (fun s =>
    let i := me s
    let r := s.cur.reg.toNat
    if c == 0 then
      let s := release s i 1
      match (List.range 4).find? (fun n => n != s.cur.str.toNat && (getStrand s (r * 4 + n)).run == .idle) with
      | some n =>
        let inTask := (getStrand s (r * 4)).task.isSome && (s.cur.str == 0 || (self s).inTask)
        let s := startStrand s (r * 4 + n) (opA s a) [(1, opB s b)]
        let s := updStrand s (r * 4 + n) (fun st => { st with inTask := inTask })
        result s d (BitVec.ofNat 64 n)
      | none => result s d (-1)
    else if c != 2 || b != 0 then trapReservedOperand s
    else withAligned s (opA s a) 64 .read (fun key s =>
      let s := release s i 3
      match cardOf (bytesWords (readBytes s key 64) 8) with
      | none => result s d (refusal 1)
      | some k =>
        if (myTeam s).card.isSome then result s d (refusal 2)
        else
          let n := takeNumber s
          let s := updTeam (retireNumber n.2 r n.1) (myTeam s).id (fun t => { t with card := some k })
          advance (setG s d (BitVec.ofNat 64 n.1)) n.1)) s

/-- Start one task of a chunk on a region's strand 0 (R72). -/
def startTask (s : State) (r : Nat) (c : Card) (k : Task) : State :=
  let s := startStrand s (r * 4) c.entry
    [(1, c.args + BitVec.ofNat 64 (k.index * c.rsz)), (2, BitVec.ofNat 64 k.index), (3, BitVec.ofNat 64 k.attempt)]
  updStrand s (r * 4) (fun st => { st with task := some k, wbuf := [], wown := {} })

/-- A strand holds no work any more (R68). -/
def goIdle (s : State) (i : Nat) : State :=
  updStrand s i (fun st => { st with run := .idle, hold := none, inTask := false, traps := { st.traps with replay := [], idleAfter := false } })

/-- The task of the strand in progress ends: the buffer is written out and released (R73), the strand's tether entry goes (R81). -/
def endTask (s : State) (z : Nat) : State :=
  let s := release (flushBuffer s z) z 3
  dropTether (updStrand s z (fun st => { st with task := none, view := { st.view with snap := ownSnap st.view.stores } })) (gidOf s z)

/-- Whether strands that the task started still run (R286). -/
def startedBusy (s : State) (z : Nat) : Bool :=
  (List.range 4).any (fun n => n != 0 && (getStrand s (z + n)).inTask && (getStrand s (z + n)).run != .idle)

/-- What must be over before a task ends (R73, R286): the strands it started are IDLE, and the lines of its buffer that go to another module
have been acknowledged; otherwise the strand waits, not READY. -/
def taskOver (s : State) (i : Nat) (f : State → State) : State :=
  if startedBusy s i then holdAtPc s .taskend
  else if !(awayLines s i).isEmpty then holdAtPc (sendBuffer s i) .sent
  else f s

/-- TASKEND (R286); going on to the chunk's next task is a completed instruction (R221). -/
def execTaskend (s : State) : Out' :=
  runStep (fun s =>
    let i := me s
    let r := s.cur.reg.toNat
    match (self s).task with
    | some k => taskOver s i (fun s =>
        let s := endTask s i
        match (myTeam s).card with
        | some c =>
          if decide (0 < k.rest) then
            stepOrWatch (startTask (goIdle s i) r c { index := k.index + 1, rest := k.rest - 1 }) i 0
          else tryRetire (goIdle s i) (myTeam s).id
        | none => tryRetire (goIdle s i) (myTeam s).id)
    | none =>
      let s := if (self s).inTask then dropTether s (gidOf s i) else s
      tryRetire (goIdle s i) (myTeam s).id) s

/-- TEAMEND (R69, R286): in a task it ends the task first; the rest of its chunk is dealt again. -/
def execTeamend (s : State) : Out' :=
  runStep (fun s =>
    let i := me s
    let finish (s : State) : State := tryRetire (updStrand (goIdle s i) i (fun st => { st with ended := true })) (myTeam s).id
    match (self s).task with
    | some k => taskOver s i (fun s =>
        let s := endTask s i
        finish (updTeam s (myTeam s).id (fun t => { t with card := t.card.map (fun c => returnTasks c t (i / 4) k false) })))
    | none => finish (if (self s).inTask then dropTether s (gidOf s i) else s)) s

/-- The Ostler deals to an IDLE strand 0 (R72). -/
def execTaskDeal (r : RegionId) (s : State) : Out' :=
  runStep (fun s =>
    let rn := r.toNat
    match teamOf s rn with
    | some t =>
      match t.card with
      | some c =>
        let z := getStrand s (rn * 4)
        if t.state != .running || z.run != .idle || z.task.isSome then s
        else match c.queue.find? (fun q => q.die == regionDie rn && (q.dealt || q.last != rn || t.regions.length == 1)) with
          | some q =>
            let s := updTeam s t.id (fun t => { t with card := some { c with queue := c.queue.erase q } })
            startTask s rn c { index := q.index, attempt := q.attempt }
          | none =>
            if c.remaining = 0 then s
            else
              let n := max 1 ((c.remaining + 2 * t.regions.length - 1) / (2 * t.regions.length))
              let s := updTeam s t.id (fun t => { t with card := some { c with remaining := c.remaining - n } })
              startTask s rn c { index := c.n - c.remaining, rest := n - 1 }
      | none => s
    | none => s) s

/-- The job card ends (R73): JSTAT is written, then a release, then JDONE is added to. -/
def execJobCardEnd (team : TeamId) (s : State) : Out' :=
  runStep (fun s =>
    let t := getTeam s team.toNat
    match t.card with
    | some c =>
      let busy := t.regions.any (fun r => (getStrand s (r * 4)).task.isSome)
      if t.state != .running || decide (0 < c.remaining) || !c.queue.isEmpty || busy then s
      else
        let stat := BitVec.ofNat 64 ((if c.failed.isSome then 2 ^ 56 else 0) + c.used * 2 ^ 32 + c.failed.getD 0)
        let s := teamPut s t c.jstat stat
        let s := t.regions.foldl (fun s r => (List.range 4).foldl (fun s n => release s (r * 4 + n) 3) s) s
        let s := teamAdd s t c.jdone 1
        tryRetire (updTeam s t.id (fun t => { t with card := none })) t.id
    | none => s) s

/-- Whether a region has work of a team in flight (R70). -/
def regionFlying (s : State) (id r : Nat) : Bool :=
  (getRegion s r).carters.vals.any (fun c => c.cur.isSome || !c.queue.isEmpty)
  || (List.range 4).any (fun n => decide (0 < (getStrand s (r * 4 + n)).c0) || !(getStrand s (r * 4 + n)).sent.isEmpty
      || (getStrand s (r * 4 + n)).view.stores.any (·.sent))
  || s.chans.vals.any (fun c => c.team == id && c.preg == r && c.branches.any (fun b => decide (0 < b.sent)))
  || s.fab.inbound.any (fun p => Hp.cls p == 2 && Hp.smod p == modN s && Hp.src p / 4 == r)

/-- RELEASE (R70, R287): the team shrinks to its leading span. A retry queued for a die on which the team keeps no region stays queued there
(DESIGN CHOICE: no rule speaks of it; log 16). -/
def execRelease (d a : Reg) (s : State) : Out' :=
  runStep (fun s =>
    let v := opA s a
    let t := myTeam s
    let r := s.cur.reg.toNat
    let w := 2 ^ bitsN v 0 3
    let h := 2 ^ bitsN v 3 2
    let span := rectRegions t.x t.y w h
    let gone := t.regions.filter (fun q => !span.contains q)
    if bitsN v 5 59 != 0 || decide (t.w < w) || decide (t.h < h) then result s d (refusal 5)
    else if !span.contains r then result s d (refusal 1)
    else if gone.isEmpty then result s d (refusal 2)
    else if gone.any (fun q => (List.range 4).any (fun n => (getStrand s (q * 4 + n)).run != .idle)) then result s d (refusal 3)
    else if gone.any (regionFlying s t.id) then result s d (refusal 4)
    else
      let s := dropRegionChans (freeRegions s gone) t.id gone
      result (updTeam s t.id (fun t => { t with w := w, h := h })) d 0) s

/-! ### The Farrier -/

/-- Result word of R290. -/
def farrierWord (state : Nat) (fail : Bool) (reg next first sig : Nat) : Word :=
  BitVec.ofNat 64 (state * 2 ^ 62 + (if fail then 2 ^ 61 else 0) + reg * 2 ^ 54 + next * 2 ^ 40 + first * 2 ^ 32 + sig)

/-- Whether a region is held by a team, or kept for one (R289). -/
def regionHeld (s : State) (r : Nat) : Bool :=
  (teamOf s r).isSome || s.ost.holds.any (fun h => (rectRegions h.1 h.2.1 h.2.2.1 h.2.2.2.1).contains r)

/-- FSCAN (R289): pattern F is applied on this clock (R373). -/
def execFscan (d a b : Reg) (s : State) : Out' :=
  runStep (fun s =>
    let v := opA s a
    let ctr := opB s b
    let r := bitsN v 0 7
    let f := bitsN v 8 8
    let n := bitsN v 16 8
    let die := regionDie r
    let go (key : Option Nat) (s : State) : State :=
      if regionHeld s r then result s d 1
      else if (getDie s die).farrier.isSome then result s d 2
      else
        let prior := (getRegion s r).lr
        let s := updRegion s r (fun g => { g with lr := 3 })
        let s := updDie s die (fun x => { x with
          farrier := some { region := BitVec.ofNat 7 r, stop := f + (if n = 0 then 100 - f else n), counter := key, prior := prior, due := s.clock + 1999 }
          fres := farrierWord 1 false r f 0 0 })
        result s d 0
    if userMode s then trapPrivileged s
    else if bit v 7 || bitsN v 24 40 != 0 || decide (99 < f) || decide (100 < f + n) then result s d 3
    else if ctr == 0 then go none s
    else withAligned s ctr 8 .write (fun key s => go (some key) s)) s

/-- FSIG (R290). -/
def execFsig (d a : Reg) (s : State) : Out' :=
  runStep (fun s =>
    if userMode s then trapPrivileged s
    else result s d (getDie s (regionDie (bitsN (opA s a) 0 7))).fres) s

/-- FARRIER_RUN_END (R373): the result word and the LRMAP field, the MSI-X vector, then the completion add. -/
def farrierEnd (s : State) (die : Nat) (f : FRun) (w : Word) (lr : BitVec 2) : State :=
  let s := updDie s die (fun x => { x with farrier := none, fres := w })
  let s := updRegion s f.region.toNat (fun g => { g with lr := lr })
  let s := emit s (.msix 4)
  match f.counter with
  | some key => writeWord s key (readWord s key + 1)
  | none => s

/-- The Ostler drops what it keeps of a region that has become OUT: the head competes again as if it had pre-empted nothing, its port's deficit
given back (R62, R373). -/
def dropHold (s : State) (r : Nat) : State :=
  let covers (h : Nat × Nat × Nat × Nat × Nat) : Bool := (rectRegions h.1 h.2.1 h.2.2.1 h.2.2.2.1).contains r
  let s := (s.ost.holds.filter covers).foldl (fun s h =>
    let t := getTeam s h.2.2.2.2
    if t.state == .queued then
      { s with ost := { s.ost with deficit := s.ost.deficit.put t.port (min (s.ost.deficit.getD t.port 0 + t.w * t.h) 128) } }
    else s) s
  { s with ost := { s.ost with holds := s.ost.holds.filter (fun h => !covers h) } }

/-- A pattern boundary (R373), with the signature read and whether it mismatches: an input of the world (log 6). It is taken once the
boundary clock is over, with every commitment of that clock; after the last pattern the run ends DONE (R289). -/
def execFarrierPatternBoundary (die : DieId) (sig : Word32) (mismatch : Bool) (s : State) : Out' :=
  runStep (fun s =>
    let dn := die.toNat
    match (getDie s dn).farrier with
    | some f =>
      let p := bitsN (getDie s dn).fres 40 8
      let r := f.region.toNat
      let pre := match f.pre with | some c => decide (c ≤ f.due) | none => false
      if decide (s.clock ≤ f.due) then s
      else if mismatch then
        farrierEnd (dropHold s r) dn f (farrierWord 2 true r p p sig.toNat) 2
      else if decide (f.stop ≤ p + 1) then farrierEnd s dn f (farrierWord 2 false r (p + 1) 0 sig.toNat) 0
      else if pre then farrierEnd s dn f (farrierWord 3 false r (p + 1) 0 sig.toNat) f.prior
      else updDie s dn (fun x => { x with farrier := some { f with due := f.due + 2000 }, fres := farrierWord 1 false r (p + 1) 0 sig.toNat })
    | none => s) s

/-! ### The debugger (R224) -/

/-- DENIED while the module is DEPLOYED and the strand's team is not the firmware's own (R224). -/
def debugDenied (s : State) (i : Nat) : Bool :=
  s.sec.lcs == .deployed && (match teamOf s (i / 4) with | some t => t.atag != 0 | none => false)

def debugCommand (s : State) (cmd : String) (r : RegionId) (t : StrandNo) (f : State → Nat → State) : State :=
  let i := sid r t
  if debugDenied s i then refuse s cmd "DENIED" else f (reply s cmd) i

/-- A stopped strand goes on from the frame at TFRAME, which the debugger may have rewritten; unreadable, from the hardware copy. -/
def debugRun (s : State) (i : Nat) : State :=
  let st := getStrand s i
  if st.run != .stopped then s
  else
    let ws := match frameKeys s { strandSpace s i with svm := handlerSvm s i } st.spr.tframe .read 5 with
      | some keys => bytesWords (keys.flatMap (fun k => readBytes s k 64)) 40
      | none => st.traps.frame
    if decide (8 < bitsN (ws.getD 0 0) 8 4) then refuse s "DRUN" "RESERVED_FIELD" else returnFrame s i ws st.pc []

/-- DATTACH. -/
def execDattach (r : RegionId) (t : StrandNo) (s : State) : Out' :=
  runStep (fun s => debugCommand s "DATTACH" r t (fun s i => updStrand s i (fun st => { st with spr := { st.spr with dba := true } }))) s

/-- DDETACH: DBA and SS clear, and a STOPPED strand resumes. -/
def execDdetach (r : RegionId) (t : StrandNo) (s : State) : Out' :=
  runStep (fun s => debugCommand s "DDETACH" r t (fun s i =>
    debugRun (updStrand s i (fun st => { st with spr := { st.spr with dba := false, ss := false }, traps := { st.traps with stopDue := false } })) i)) s

/-- DSTOP: the replay queue is formed as at a trap, once requests with an effect have their responses (R209); a wait is abandoned; an IDLE
strand has NREP = 0 and RPC = 0. A strand that the firmware or CLOSE holds stops at its next instruction boundary. -/
def execDstop (r : RegionId) (t : StrandNo) (s : State) : Out' :=
  runStep (fun s => debugCommand s "DSTOP" r t (fun s i =>
    let st := getStrand s i
    let later := st.hold == some .firmware || st.hold == some .closed || st.traps.due.isSome
    if st.run == .stopped || st.hold == some .killed then s
    else if later then updStrand s i (fun st => { st with traps := { st.traps with stopDue := true } })
    else if st.run == .idle then toDebugger s i {} 0 0 []
    else
      let x := abandonWait s i
      if st.live.any (·.effect) then raiseLater x.1 i { tpc := st.pc, rpc := st.pc, ents := x.2 ++ st.traps.replay, dest := 2 }
      else toDebugger x.1 i {} st.pc st.pc (x.2 ++ st.traps.replay))) s

/-- DSS. -/
def execDss (r : RegionId) (t : StrandNo) (v : Bool) (s : State) : Out' :=
  runStep (fun s => debugCommand s "DSS" r t (fun s i => updStrand s i (fun st => { st with spr := { st.spr with ss := v } }))) s

/-- DRUN. -/
def execDrun (r : RegionId) (t : StrandNo) (s : State) : Out' :=
  runStep (fun s => debugCommand s "DRUN" r t debugRun) s

/-! ### The firmware forwards a fault -/

/-- The firmware forwards a strand's fault to the team handler; a PAGE_FAULT it declares unresolvable in an uncommitted task is a task
fault (R73). With none held by the strand, the oldest fault-queue entry of the region goes to the strand that set the work going (R162). -/
def execFaultForward (r : RegionId) (t : StrandNo) (unresolvable : Bool) (s : State) : Out' :=
  runStep (fun s =>
    let i := sid r t
    let st := getStrand s i
    match st.hold, st.traps.fw with
    | some .firmware, some c =>
      if ((teamOf s (i / 4)).getD {}).leave.closed then s else
      let s := updStrand s i (fun st => { st with hold := none, traps := { st.traps with fw := none } })
      if unresolvable && c.1.code == 0x04 && inOpenTask s i then taskFault s i
      else toTeam s i c.1 c.2 st.pc st.traps.replay
    | _, _ =>
      match takeFault s (regionDie r.toNat) (fun e => bitsN e.w1 32 7 == r.toNat) with
      | (some e, s') =>
        let q := bitsN e.w2 0 48
        let site : Word := if bitsN e.w1 53 3 == 1 then BitVec.ofNat 64 (bitsN e.w1 20 19 * 2 ^ 20) else 0
        let x := pendAsync s' (causeStrand s' r.toNat q) { code := bits e.w1 56 8, tval := e.w0, tseq := q, asite := site }
        if x.1 then x.2 else s
      | (none, _) => s) s

end Sys2Proof.Machine
end

