-- ==== Sys2Proof/Machine/Trees.lean ====
section
/-! DEFINITION. Reduction trees (R29–R32, R283, R311, R354): nodes, contributions, folding, timers, RSEND and RRECV. -/

namespace Sys2Proof.Machine

def Tree.node (t : Tree) (r : Nat) : Option Node := t.nodes.find? (fun n => n.reg.toNat == r)

def setTree (s : State) (id : Nat) (t : Tree) : State := { s with trees := s.trees.put id t }

/-- The tree of an id, when the team installed it. -/
def teamTree (s : State) (team id : Nat) : Option Tree := (s.trees.find? id).filter (fun t => t.team == team)

/-- Leaves beneath a node: the regions whose SELF slots lie in its subtree (R311). -/
def Tree.leaves (t : Tree) : Nat → Nat → BitVec 128
  | 0, _ => 0
  | n + 1, r => match t.node r with
    | none => 0
    | some x => x.kids.foldl (fun m k => m ||| (match k with | .self _ => BitVec.ofNat 128 (2 ^ r) | .node c => t.leaves n c.toNat)) 0

def Tree.kidLeaves (t : Tree) (r : Nat) : Kid → BitVec 128
  | .self _ => BitVec.ofNat 128 (2 ^ r)
  | .node c => t.leaves t.nodes.length c.toNat

/-- FP32 addition rounded to nearest even, lane by lane (R30, R203). -/
def addLine (a b : Line) : Line :=
  ofLanes 32 (((lanesOf .fp32 a).zip (lanesOf .fp32 b)).map (fun p => roundFloat .fp32 0 false 0 ((decodeLane .fp32 p.1).add (decodeLane .fp32 p.2))))

/-- Fold a node's contributions of its epoch, in child order (R30): the sum, or none, and the mask. -/
def foldNode (t : Tree) (n : Node) : Option (List Line) × BitVec 128 :=
  ((List.range n.kids.length).zip n.kids).foldl (fun acc k =>
    match n.held.find? (fun c => c.epoch == n.epoch && c.child == k.1) with
    | some c => match c.val, acc.1 with
      | some v, some a => (some ((a.zip v).map (fun p => addLine p.1 p.2)), acc.2 ||| c.mask)
      | some v, none => (some v, acc.2 ||| c.mask)
      | none, _ => (acc.1, acc.2 ||| c.mask)
    | none => (acc.1, acc.2 ||| t.kidLeaves n.reg.toNat k.2)) (none, 0)

def Node.complete (n : Node) : Bool := (List.range n.kids.length).all (fun k => n.held.any (fun c => c.epoch == n.epoch && c.child == k))

def Tree.setNode (t : Tree) (n : Node) : Tree := { t with nodes := t.nodes.map (fun x => if x.reg == n.reg then n else x) }

/-- A contribution leaves as a C2 packet for the node of region r (R18, R30): tree and child slot, epoch, empty flag, and the mask in the
address beat. -/
def sendC2 (s : State) (id src dst k epoch : Nat) (v : Option (List Line)) (mask : BitVec 128) : State :=
  let tag := match s.trees.find? id with | some t => (getTeam s t.team).atag | none => 0
  let pay := v.getD []
  let csp := epoch % 65536 * 2 ^ 15 + if v.isNone then 2 ^ 14 else 0
  inject s { hdr := mkHdr (modN s) (regionDie dst) (id + k * 64) (modN s) src 2 tag 0 pay.length csp, addr := BitVec.ofNat 512 mask.toNat, pay := pay }

/-- A node sends its result (R30, R32): upwards, or to the root strand; the held epoch becomes current and its timer starts. -/
def sendNode (s : State) (id : Nat) (t : Tree) (n : Node) : State :=
  let x := foldNode t n
  let held := n.held.filter (fun c => c.epoch != n.epoch)
  let due := if held.isEmpty || t.tout == 0 then none else some (s.clock + t.tout * 1000)
  let t := t.setNode { n with epoch := n.epoch + 1, held := held, due := due }
  match n.parent with
  | none => setTree s id { t with results := t.results ++ [{ epoch := n.epoch, val := x.1, mask := x.2 }] }
  | some p =>
    let k := match t.node p.toNat with | some q => (q.kids.findIdx? (fun k => k == .node n.reg)).getD 0 | none => 0
    sendC2 (setTree s id t) id (n.reg.toNat * 4) p.toNat k n.epoch x.1 x.2

/-- A complete epoch is folded at once; the next one may be complete too. -/
def settleNode (r id : Nat) : Nat → State → State
  | 0, s => s
  | k + 1, s => match s.trees.find? id with
    | some t => match t.node r with
      | some n => if n.complete then settleNode r id k (sendNode s id t n) else s
      | none => s
    | none => s

/-- A contribution reaches a node (R29, R31, R32): late, too early or of a wrong length, it is discarded and counted; one of a wrong
length counts with the late ones (DESIGN CHOICE: R29 says only 'counted'; log 34). -/
def landContrib (s : State) (id : Nat) (t : Tree) (n : Node) (c : Contrib) : State :=
  let short := match c.val with | some v => v.length != t.len | none => false
  if short || decide (c.epoch < n.epoch) || decide (n.epoch + 1 < c.epoch) then setTree s id { t with late := t.late + 1 }
  else
    let due := if c.epoch == n.epoch && n.due.isNone && t.tout != 0 then some (s.clock + t.tout * 1000) else n.due
    settleNode n.reg.toNat id 2 (setTree s id (t.setNode { n with held := n.held ++ [c], due := due }))

/-- Whether a C2 packet is for a node: its tree, die and child slot, the child being the strand or the region it comes from. -/
def contribFor (s : State) (id : Nat) (n : Node) (p : Packet) : Bool :=
  Hp.cls p == 2 && Hp.dmod p == modN s && !p.bad && Hp.tree p == id && Hp.ddie p == regionDie n.reg.toNat && p.here == Hp.ddie p &&
  (match n.kids[Hp.slot p]? with
    | some (.self t) => Hp.src p == n.reg.toNat * 4 + t.toNat
    | some (.node c) => Hp.src p / 4 == c.toNat
    | none => false)

/-- The contribution of a C2 packet; its epoch is the one nearest the node's with the 16 bits that the packet carries. -/
def contribOf (n : Node) (p : Packet) : Contrib :=
  let d := (Hp.epoch p + 65536 - n.epoch % 65536) % 65536
  { epoch := if d < 32768 then n.epoch + d else n.epoch + d - 65536, child := Hp.slot p, val := if Hp.empty p then none else some p.pay
    mask := bits p.addr 0 128 }

/-- Whether contributions of a team are on their way: the parent acknowledges each as it arrives (R20, R28). -/
def contribFlying (s : State) (team : Nat) : Bool :=
  s.fab.inbound.any (fun p => Hp.cls p == 2 && Hp.smod p == modN s && (teamTree s team (Hp.tree p)).isSome)

/-- RED_CONTRIBUTION_ARRIVE: the contribution longest on its way to a node arrives, and is acknowledged to the child (R20, R32). -/
def execRedContributionArrive (tree : BitVec 6) (r : RegionId) (s : State) : Out' :=
  runStep (fun s =>
    match s.trees.find? tree.toNat with
    | none => s
    | some t => match t.node r.toNat with
      | none => s
      | some n => match s.fab.inbound.find? (contribFor s tree.toNat n) with
        | none => s
        | some p => landContrib (updFab s (fun f => { f with inbound := f.inbound.erase p })) tree.toNat t n (contribOf n p)) s

/-- RED_NODE_TIMEOUT (R31): the node sends what it holds; absent children's leaves join the mask. -/
def execRedNodeTimeout (tree : BitVec 6) (r : RegionId) (s : State) : Out' :=
  runStep (fun s =>
    match s.trees.find? tree.toNat with
    | none => s
    | some t => match t.node r.toNat with
      | none => s
      | some n => match n.due with
        | some d => if decide (d ≤ s.clock) then settleNode r.toNat tree.toNat 1 (sendNode s tree.toNat t n) else s
        | none => s) s

/-- Send a strand's contribution for its next epoch (R283, R354). -/
def sendContrib (s : State) (r slot id : Nat) (k : Nat) (v : Option (List Line)) : State :=
  let i := r * 4 + slot
  let e := (getStrand s i).epochs.getD id 0
  let s := updStrand s i (fun st => { st with epochs := st.epochs.put id (e + 1) })
  sendC2 s id i r k e v 0

/-- The child slot of a strand in a node. -/
def Node.slot (n : Node) (t : Nat) : Option Nat := n.kids.findIdx? (fun k => k == .self (BitVec.ofNat 2 t))

/-- RADD at the end of a firing (R354): it never waits. -/
def radd (s : State) (r team id slot : Nat) (v : List Line) : State :=
  match teamTree s team id with
  | none => bump s r 56 1
  | some t => match t.node r with
    | none => bump s r 56 1
    | some n => match n.slot slot with
      | none => bump s r 56 1
      | some k =>
        if decide (n.epoch + 2 ≤ (getStrand s (r * 4 + slot)).epochs.getD id 0) then setTree s id { t with late := t.late + 1 }
        else sendContrib s r slot id k (some (v.take t.len))

def linesOf (bs : List Byte) : Nat → List Line
  | 0 => []
  | n + 1 => BitVec.ofNat 512 (ofBytes (bs.take 64)) :: linesOf (bs.drop 64) n

/-- Status 2 of RSEND and RRECV. -/
def redRefused : Word := BitVec.ofNat 64 (2 ^ 63)

/-- RSEND (R283). -/
def execRsend (d a b : Reg) (s : State) : Out' :=
  runStep (fun s =>
    let r := s.cur.reg.toNat
    let g := opB s b
    let id := bitsN g 0 6
    match (if bitsN g 6 2 != 0 || bitsN g 9 55 != 0 then none else teamTree s (myTeam s).id id) with
    | none => result s d redRefused
    | some t => match t.node r with
      | none => result s d redRefused
      | some n => match n.slot s.cur.str.toNat with
        | none => result s d redRefused
        | some k =>
          let e := (self s).epochs.getD id 0
          let va := opA s a
          let out : Word := BitVec.ofNat 64 (e % 65536)
          if !bit g 8 && va.toNat % 64 != 0 then trapMisalign s va
          else if decide (n.epoch + 2 ≤ e) then holdSelf s (.rsend (BitVec.ofNat 6 id))
          else if bit g 8 then result (sendContrib s r s.cur.str.toNat id k none) d out
          else withBlocks s va [] (fun bs s => result (sendContrib s r s.cur.str.toNat id k (some (linesOf bs t.len))) d out) t.len) s

/-- Where the k-th 64-byte line that an access at `va` touches begins in its bytes. -/
def lineStart (va : Word) (k : Nat) : Nat := 64 * k - va.toNat % 64

/-- Lines that n bytes at `va` touch. -/
def lineCount (va : Word) (n : Nat) : Nat := (va.toNat % 64 + n + 63) / 64

/-- The part of the bytes of an access at `va` that lies in its k-th line. -/
def linePart (va : Word) (bs : List Byte) (k : Nat) : List Byte :=
  (bs.drop (lineStart va k)).take (lineStart va (k + 1) - lineStart va k)

/-- Store bytes of the strand in progress, line by line: every part is translated before any is stored. -/
def withStores (s : State) (va : Word) (bs : List Byte) (keys : List Nat) (cont : State → State) : Nat → State
  | 0 => cont (((List.range keys.length).zip keys).foldl (fun s k => storeBytes s (me s) k.2 (linePart va bs k.1)) s)
  | n + 1 => withKey s (va + BitVec.ofNat 64 (lineStart va keys.length)) (linePart va bs keys.length).length .write
      (fun key s => withStores s va bs (keys ++ [key]) cont n)

def popcount {n : Nat} (v : BitVec n) : Nat := ((List.range n).filter (fun k => bit v k)).length

/-- RRECV (R283): the result, the mask, then REDUCE_TIMEOUT when a leaf is missing. -/
def execRrecv (d a b : Reg) (s : State) : Out' :=
  runStep (fun s =>
    let r := s.cur.reg.toNat
    let g := opB s b
    let id := bitsN g 0 6
    match (if bitsN g 6 58 != 0 then none else teamTree s (myTeam s).id id) with
    | none => result s d redRefused
    | some t =>
      if !(t.nodes.any (fun n => n.parent.isNone && n.reg.toNat == r && n.rstr == s.cur.str)) then result s d redRefused
      else
        let va := opA s a
        match t.results with
          | [] => holdSelf s (.rrecv (BitVec.ofNat 6 id))
          | x :: rest =>
            let sum := (x.val.getD (List.replicate t.len 0)).flatMap (fun l => toBytes l 64)
            let v : Word := BitVec.ofNat 64 (x.epoch % 65536 + popcount x.mask * 2 ^ 32 + (if x.val.isNone then 2 ^ 61 else 0))
            withStores s va (sum ++ toBytes x.mask 16) [] (fun s =>
              let s := setTree s id { t with results := rest, next := x.epoch + 1 }
              if x.mask == 0 then result s d v
              else
                let s := movePc (setG s d v)
                let next := (self s).pc
                toTeam s (me s) { code := 0x13, tval := x.mask.setWidth 64 } next next (self s).traps.replay) (lineCount va (64 * t.len + 16))) s

end Sys2Proof.Machine
end

