-- ==== Sys2Proof/Machine/Actor.lean ====
section
/-! DEFINITION. Actors at work: readiness (R116), the arbiter (R117), the draw (R102), firings (R115), marker steps (R144), joins
(R145, R146), sections (R121, R122), memory-node actors (R159, R163), the draw interval (R103) and the Reins (R150). -/

namespace Sys2Proof.Machine

/-! ### Heads -/

def seenAt (s : State) (r tile ep : Nat) : Seen :=
  match inBranch s r tile ep with
  | some cb => (getBranch s cb.1 cb.2).seen s.clock
  | none => .nothing

/-- Whether an endpoint is JA or JB of a join. -/
def Hdr.joined (h : BitVec 128) (n : Nat) : Bool := Hdr.join h != 0 && (n == Hdr.ja h || n == Hdr.jb h)

/-- A marker that the actor takes by itself (R116, R144): any marker, but for a GAP and an END at JA and JB. -/
def ownMark (h : BitVec 128) (n : Nat) : Seen → Bool
  | .gap _ => !Hdr.joined h n
  | .mark t => !Hdr.joined h n || t.mtype != 2
  | _ => false

/-- The lowest counted endpoint with such a marker at its head. -/
def markEp (s : State) (r tile : Nat) (h : BitVec 128) : Option Nat :=
  (List.range 8).find? (fun n => Hdr.icnt h n != 0 && ownMark h n (seenAt s r tile n))

/-- The other joined input. -/
def Hdr.otherSide (h : BitVec 128) (n : Nat) : Nat := if n == Hdr.ja h then Hdr.jb h else Hdr.ja h

/-- Whether a marker or gap stands at a head. -/
def Seen.isMark : Seen → Bool
  | .gap _ | .mark _ => true
  | _ => false

/-- Whether an input holds what a firing or the join needs (R116). A join needs no more of a record's side than its head where the other side
shows a gap or an END, or where what stands behind its records is a gap or an END: the positions before that are resolved first (R145; log 26). -/
def inputReady (s : State) (r tile : Nat) (h : BitVec 128) (n : Nat) : Bool :=
  Hdr.icnt h n == 0 ||
  (match inBranch s r tile n with
    | none => false
    | some cb =>
      let b := getBranch s cb.1 cb.2
      match b.seen s.clock with
      | .record _ => decide (Hdr.icnt h n ≤ (leadToks s.clock b).length)
          || (Hdr.joined h n && (leadEnds s.clock b || (seenAt s r tile (Hdr.otherSide h n)).isMark))
      | .gap _ | .mark _ => true
      | .nothing => false)

/-- Records that an input of a join can give: at most those of its ICNT. -/
def sideRecs (s : State) (r tile : Nat) (h : BitVec 128) (n : Nat) : Nat :=
  match inBranch s r tile n with
  | some cb =>
    let b := getBranch s cb.1 cb.2
    min (lead s.clock b.buf).length (max 1 (Hdr.icnt h n / b.lc (getChan s cb.1).head))
  | none => 0

/-- Tokens that a firing takes or reads at an input: its ICNT; of a join's sides the same number of records each, and one where the other side's
position is filled (R116, R145, R316). -/
def inputTake (s : State) (r tile : Nat) (h : BitVec 128) (mark fill : Option Nat) (n : Nat) : Nat :=
  if !Hdr.joined h n || mark.isSome then max 1 (Hdr.icnt h n)
  else match inBranch s r tile n with
    | some cb => (if fill.isSome then 1 else max 1 (min (sideRecs s r tile h (Hdr.ja h)) (sideRecs s r tile h (Hdr.jb h)))) * (getBranch s cb.1 cb.2).lc (getChan s cb.1).head
    | none => 0

/-- Whether a context of a tile has been STARTED, on an earlier clock (R131). -/
def startedAt (s : State) (r : Nat) (t : Tile) (ctx : Nat) : Bool :=
  match t.ctxs.find? ctx with
  | some c => c.started && c.startAt != some s.clock
  | none => (getRegion s r).started.contains ctx

/-- Whether a team's actors may start a firing (R116, R216, R217, R222). -/
def Team.fires (t : Team) : Bool := (t.state == .running || (t.state == .saving && !t.leave.quiet && !t.leave.hard)) && !t.energy.exh

def getSect (s : State) (r ctx sec : Nat) : Sect := (getRegion s r).sects.getD (ctx * 16 + sec) {}

/-- An actor is ready (R116), given that its context is active and started and its tile may run. -/
def actorReady (s : State) (r tile ctx : Nat) (a : Actor) : Bool :=
  let sec := getSect s r ctx (Hdr.sec a.hdr)
  sec.armed && !sec.done && (!Hdr.secx a.hdr || sec.count == 0 || a.remaining != 0)
    && !a.halted && a.park.isNone && a.trapped.isNone
    && ((List.range 8).all (inputReady s r tile a.hdr) || (markEp s r tile a.hdr).isSome)

/-- Whether a tile may take a firing opportunity on this clock (R90, R113, R116, R117). -/
def tileFree (s : State) (t : Tile) : Bool :=
  t.gait.cur != 0 && t.gait.sw.isNone && t.csw.isNone && t.fir.isNone && decide (t.busy ≤ s.clock) && (t.gait.cur != 1 || s.clock % 4 == 0)

/-- The ready actors of the active context. -/
def readyActors (s : State) (r tile : Nat) (t : Tile) : List Nat :=
  match teamOf s r, t.ctxs.find? t.active with
  | some tm, some c =>
    if tm.fires && tileFree s t && startedAt s r t t.active && c.hold.isNone then
      (List.range 4).filter (fun a => match c.actors.find? a with | some x => actorReady s r tile t.active x | none => false)
    else []
  | _, _ => []

/-! ### The arbiter (R117) -/

def clamp16 (v : Int) : Int := max (-32768) (min 32767 v)

def Ctx.actor (c : Ctx) (a : Nat) : Actor := c.actors.getD a {}
def Ctx.updActor (c : Ctx) (a : Nat) (f : Actor → Actor) : Ctx := { c with actors := c.actors.put a (f (c.actor a)) }

/-- The actor with the largest credit, ties to the lowest. -/
def bestActor (c : Ctx) : List Nat → Option Nat
  | [] => none
  | a :: rest => match bestActor c rest with
    | some b => if decide ((c.actor b).credit > (c.actor a).credit) then some b else some a
    | none => some a

/-- One opportunity: the pick, and the context with its credits after it. -/
def arbitrate (c : Ctx) (rdy : List Nat) : Option (Nat × Ctx) :=
  let c1 := rdy.foldl (fun c' a => c'.updActor a (fun x =>
    { x with credit := clamp16 ((if c.ready.contains a then x.credit else 0) + x.weight) })) c
  let total : Nat := rdy.foldl (fun n a => n + (c.actor a).weight) 0
  (bestActor c1 rdy).map (fun p => (p, { (c1.updActor p (fun x => { x with credit := clamp16 (x.credit - total) })) with ready := rdy }))

/-! ### What the pick does (R144–R146) -/

/-- The action of an opportunity: a firing, with the endpoint of its marker or of its filled gap; a marker step; a gap step or
discard of the join; a park by JOIN_MISMATCH; the join of two ENDs. -/
inductive Todo where
  | fire (mark fill : Option Nat)
  | pass (ep : Nat)
  | gaps (ga gb : Gap)
  | out (gapEp recEp : Nat) (g : Gap)
  | park
  | drop (long short : Nat)
  | ends
  deriving DecidableEq, Repr

def todoOf (s : State) (r tile : Nat) (a : Actor) : Todo :=
  let h := a.hdr
  match markEp s r tile h with
  | some n =>
    (match inBranch s r tile n with
      | some cb => if Br.fire (getBranch s cb.1 cb.2).word then .fire (some n) none else .pass n
      | none => .fire none none)
  | none =>
    if Hdr.join h == 0 then .fire none none
    else
      let ja := Hdr.ja h
      let jb := Hdr.jb h
      let mixed (gapEp recEp : Nat) (g : Gap) : Todo :=
        if a.skip || Hdr.join h == 1 then .out gapEp recEp g else if Hdr.join h == 2 then .fire none (some gapEp) else .park
      match seenAt s r tile ja, seenAt s r tile jb with
      | .mark _, .mark _ => .ends
      | .mark _, _ => .drop jb ja
      | _, .mark _ => .drop ja jb
      | .gap x, .gap y => .gaps x y
      | .gap x, .record _ => mixed ja jb x
      | .record _, .gap y => mixed jb ja y
      | _, _ => .fire none none

/-! ### Firings -/

/-- Tokens that an operand iN reads (R316). -/
def headOf (s : State) (r tile : Nat) (h : BitVec 128) (mark fill : Option Nat) (n : Nat) : List Tok :=
  if fill == some n then []
  else match inBranch s r tile n with
    | none => []
    | some cb =>
      let b := getBranch s cb.1 cb.2
      match b.seen s.clock with
      | .record _ => (leadToks s.clock b).take (inputTake s r tile h mark fill n)
      | .gap g => [gapTok g]
      | .mark t => [t]
      | .nothing => []

/-- The base record of a firing (R317). -/
def baseEp (h : BitVec 128) (heads : List (List Tok)) (fill : Option Nat) : Option Nat :=
  let isRec (n : Nat) : Bool := match heads.getD n [] with | t :: _ => !Sb.isMark t.side | [] => false
  if Hdr.join h != 0 then
    let n := if fill == some (Hdr.ja h) then Hdr.jb h else Hdr.ja h
    if isRec n then some n else none
  else (List.range 8).find? (fun n => Hdr.icnt h n != 0 && isRec n)

/-- A firing before its first word, on the tokens and chains that it takes. -/
def firOf (s : State) (r tile a : Nat) (mark fill : Option Nat) (heads : List (List Tok)) (chains : Assoc Chain) : Fir :=
  let t := getTile s r tile
  let c := t.ctxs.getD t.active {}
  let act := c.actor a
  let h := act.hdr
  let base := ((baseEp h heads fill).bind (fun n => (heads.getD n []).head?))
  let w := match base with | some t => Sb.w t.side | none => 1
  let ch := chains.getD (Hdr.chain h) {}
  { s := s, r := r, tile := tile, ctx := t.active, a := a, t := t, act := act, c := c, heads := heads, mark := mark, fill := fill
    wb := w, wr := w
    cb := (match base with | some t => Sb.c t.side | none => false)
    nb := (match base with | some t => Sb.n t.side | none => false)
    l := ch.isLast ch.lsel
    start := chains
    outs := List.replicate 8 []
    prls := (List.range 8).map (fun n => match outChan s r tile n with | some k => Head.prl (getChan s k).head | none => 1) }

/-- A firing that begins now: what it may do at once. -/
def startFir (s : State) (r tile a : Nat) (mark fill : Option Nat) : Fir :=
  let t := getTile s r tile
  let h := ((t.ctxs.getD t.active {}).actor a).hdr
  { firOf s r tile a mark fill ((List.range 8).map (headOf s r tile h mark fill)) t.chains with more := 2 ^ 16 }

/-- The words of a firing's block. -/
def Fir.block (f : Fir) : List Word := blockOf f.c.fire f.act.hdr

/-- A firing after its last word. -/
def runWords (f : Fir) : Fir := f.block.foldl runWord f

/-- A firing with what the check of every MMA word of its block reads, and the first that fails (R346). -/
def checkFir (f : Fir) : Fir × Option Word := checkMmas f f.block

/-- GALLOP cost of a firing: its words, and 1 for each token emitted (R101). -/
def firCost (f : Fir) : Nat :=
  (f.block.map wordCost).sum + (f.outs.map List.length).sum

/-- The firing that a pick would make: after the check of its MMA words, with the first that fails; after its last word as memory stands now;
and its cost. -/
structure Trial where
  chk : Fir := {}
  bad : Option Word := none
  fir : Fir := {}
  cost : Nat := 0

def tryFire (s : State) (r tile a : Nat) (mark fill : Option Nat) : Trial :=
  let x := checkFir (startFir s r tile a mark fill)
  let f := if x.2.isSome then x.1 else runWords { x.1 with did := [] }
  { chk := x.1, bad := x.2, fir := f, cost := gaitCost f.t.gait.cur (firCost f) }

/-! ### The draw (R102) -/

def Pool.holds (p : Pool) (cost : Nat) : Bool :=
  (decide ((cost : Int) ≤ p.tokens) && !(p.debt && decide (p.tokens ≤ 0))) || (decide (p.grant < cost) && decide (0 < p.tokens) && !p.drawn)

/-- Draw a cost from the region's pool and charge it to the context (R102, R104). -/
def draw (s : State) (r tile cost : Nat) : State :=
  let s := updRegion s r (fun g => { g with pool := { g.pool with tokens := g.pool.tokens - cost, drawn := true, last := tile,
                                                                  debt := g.pool.debt || decide (g.pool.tokens - cost < 0) } })
  chargeTeam s ((teamOf s r).getD {}).id cost

/-- Whether the current draw interval has not run out (R102). -/
def intervalOpen (s : State) : Bool := decide (s.clock < s.power.interval + 1000)

/-! ### Positions, gaps and markers -/

/-- Take m positions from the gap at a head (R145). -/
def takeGap (s : State) (r tile ep : Nat) (g : Gap) (m : Nat) : State :=
  match inBranch s r tile ep with
  | some cb => popGap s cb.1 cb.2 (if decide (g.cnt ≤ m) then none else
      some { first := g.first + m, cnt := g.cnt - m, wt := g.wt - share g.wt g.cnt m, cwt := g.cwt - share g.cwt g.cnt m })
  | none => s

/-- Consume the marker at a head. -/
def takeMark (s : State) (r tile ep : Nat) : State :=
  match inBranch s r tile ep with
  | some cb => (match (getBranch s cb.1 cb.2).seen s.clock with
    | .gap _ => popGap s cb.1 cb.2 none
    | .mark _ => popItem s cb.1 cb.2
    | _ => s)
  | none => s

/-- Consume n tokens of records at a head, with the release check (R136). -/
def takeToks (s : State) (r tile ep n : Nat) : State :=
  match inBranch s r tile ep with
  | some cb => takeRecords s cb.1 cb.2 n
  | none => s

/-- Emit on an output endpoint; GAP markers are counted (R228). -/
def emitAt (s : State) (r tile ep : Nat) (toks : List Tok) : State :=
  if toks.isEmpty then s
  else
    let s := bump s r 8 (toks.filter (fun t => Sb.isMark t.side && t.mtype == 1)).length
    match outChan s r tile ep with
    | some ch => emitToks s ch toks
    | none => s

/-- Emit one token on every output endpoint with non-zero OCNT (R144, R145, R146). -/
def emitAll (s : State) (r tile : Nat) (h : BitVec 128) (t : Tok) : State :=
  (List.range 8).foldl (fun s n => if Hdr.ocnt h n == 0 then s else emitAt s r tile n [t]) s

/-- What taking a marker does besides (R301, R305): LAYOUT installs a chain, BARRIER arrives and holds the context. -/
def markEffect (s : State) (r tile ctx : Nat) (t : Tok) : State :=
  match t.mtype with
  | 3 =>
    let ws := (List.range 7).map (fun k => bits t.pay (64 + 64 * k) 64)
    updTile s r tile (fun x => { x with chains := x.chains.put (bitsN t.pay 4 2) (chainOf ws) })
  | 4 =>
    let scope := bitsN t.pay 4 3
    if scope != 1 && scope != 2 then s
    else
      let n := bitsN t.pay 16 16
      let x := arrive s r scope (if n == 0 then none else some n)
      let s := if x.2.1 then bump x.2.2 r 64 1 else x.2.2
      updTile s r tile (fun y => match y.ctxs.find? ctx with
        | some c => { y with ctxs := y.ctxs.put ctx { c with hold := some (BitVec.ofNat 3 scope, x.1) } }
        | none => y)
  | _ => s

/-! ### Sections (R122) -/

/-- Whether every SECX actor of a section has made its firings. -/
def sectFinished (s : State) (r ctx sec : Nat) : Bool :=
  let n := (getSect s r ctx sec).count
  (sectActors s r ctx sec).all (fun x =>
    let a := ((getTile s r x.1).ctxs.getD ctx {}).actor x.2
    !Hdr.secx a.hdr || (if n == 0 then a.halted else a.remaining == 0))

/-- Change the latest phase record of a context (R227). -/
def updPhase (s : State) (r ctx : Nat) (f : Phase → Phase) : State :=
  updRegion s r (fun g => match (g.phases.getD ctx []).reverse with
    | p :: rest => if p.stop.isSome then g else { g with phases := g.phases.put ctx ((f p :: rest).reverse) }
    | [] => g)

/-- The quota boundary of R107 at a SECTION_DONE: strand 0 of the region takes the trap. -/
def quotaBoundary (s : State) (r : Nat) : State :=
  match teamOf s r with
  | some t => if 0 < t.energy.due then updTeam s t.id (fun t => { t with energy := { t.energy with due := t.energy.due - 1, at0 := t.energy.at0 ++ [r] } }) else s
  | none => s

/-- The SECTION_DONE marker (R231). -/
def doneMark (ctx sec num : Nat) (aborted : Bool) : Line :=
  BitVec.ofNat 512 (5 + (if aborted then 16 else 0) + ctx * 2 ^ 8 + sec * 2 ^ 12 + num * 2 ^ 64)

/-- Whether a tile of the region still fires for a section (R180). -/
def sectFlying (s : State) (r ctx sec : Nat) : Bool :=
  s.tiles.cells.any (fun c => c.1 / 256 == r && (match c.2.fir with
    | some f => f.ctx == ctx && Hdr.sec ((c.2.ctxs.getD ctx {}).actor f.actor).hdr == sec
    | none => false))

/-- The ARM of a section that is done retires once every firing of the section has ended (R122, R180). -/
def settleArm (s : State) (r ctx sec : Nat) : State :=
  let x := getSect s r ctx sec
  if !x.done || !x.waits || sectFlying s r ctx sec then s
  else retireNumber (updRegion s r (fun g => { g with sects := g.sects.put (ctx * 16 + sec) { x with waits := false } })) r x.num

/-- A section is done (R122): its actors become unready, its ARM retires, the marker goes to the control queue, the quota boundary
is met. -/
def sectionDone (s : State) (r ctx sec : Nat) (aborted : Bool) : State :=
  let x := getSect s r ctx sec
  let s := updRegion s r (fun g => { g with sects := g.sects.put (ctx * 16 + sec) { x with done := true }
                                            ctrlq := g.ctrlq ++ [doneMark ctx sec x.num aborted] })
  let s := settleArm s r ctx sec
  let s := updPhase s r ctx (fun p => { p with lastDone := some s.clock })
  quotaBoundary s r

/-- A firing counts towards its section; a halted actor's remaining count is 0 (R115, R121, R340). -/
def countFiring (s : State) (r tile ctx a : Nat) (counts halt : Bool) : State :=
  let x := ((getTile s r tile).ctxs.getD ctx {}).actor a
  let sec := Hdr.sec x.hdr
  let st := getSect s r ctx sec
  let left := if halt then 0 else if counts && Hdr.secx x.hdr && st.count != 0 then x.remaining - 1 else x.remaining
  let s := updActor s r tile ctx a (fun x => { x with remaining := left, halted := x.halted || halt })
  if Hdr.secx x.hdr && (halt || (counts && st.count != 0)) && st.armed && !st.done && sectFinished s r ctx sec then sectionDone s r ctx sec false else s

/-! ### Causes of actors -/

/-- Raise an async cause of an actor (R211, R212, R347). -/
def actorCause (s : State) (r tile ctx a : Nat) (code : Byte) (tval : Word) : Bool × Cause × State :=
  let x := ((getTile s r tile).ctxs.getD ctx {}).actor a
  let q := tseqSection s r tile ctx (Hdr.sec x.hdr)
  let c : Cause := { code := code, tval := tval, tseq := q, asite := BitVec.ofNat 64 (r * 2 ^ 32 + tile * 2 ^ 24 + ctx * 2 ^ 22 + a * 2 ^ 20) }
  let y := pendAsync s (causeStrand s r q) c
  (y.1, c, y.2)

/-- Park an actor with a cause. -/
def parkActor (s : State) (r tile ctx a : Nat) (code : Byte) (tval : Word) : State :=
  let x := actorCause s r tile ctx a code tval
  updActor x.2.2 r tile ctx a (fun y => { y with trapped := some x.2.1, owed := !x.1 })

/-! ### Ends of actions -/

/-- Set the context after an opportunity and the clock at which the tile is free again. -/
def setOpportunity (s : State) (r tile : Nat) (c : Ctx) (clocks : Nat) : State :=
  updTile s r tile (fun t => { t with ctxs := t.ctxs.put t.active c, busy := s.clock + gaitClocks t.gait.cur clocks })

/-- Positions of a join move (R145). -/
def moveJoin (s : State) (r tile ctx a m : Nat) : State := updActor s r tile ctx a (fun x => { x with ja := x.ja + m, jb := x.jb + m, skip := false })

/-- Records that n tokens at an endpoint make. -/
def recordsIn (s : State) (r tile ep n : Nat) : Nat :=
  match inBranch s r tile ep with
  | some cb => let lc := (getBranch s cb.1 cb.2).lc (getChan s cb.1).head; max 1 (n / max 1 lc)
  | none => 1

/-- Consumption at the end of a firing, of the records it took (R115, R319). -/
def consume (f : Fir) (s : State) : State :=
  let h := f.act.hdr
  match f.mark with
  | some n => takeMark s f.r f.tile n
  | none => (List.range 8).foldl (fun s n =>
      if Hdr.icnt h n == 0 then s
      else if f.fill == some n then (match seenAt s f.r f.tile n with | .gap g => takeGap s f.r f.tile n g 1 | _ => s)
      else takeToks s f.r f.tile n (f.head n).length) s

/-- Requests of a memory-node firing: each DATA token it consumed (R159). -/
def memRequests (f : Fir) : List MReq :=
  let toks := (List.range 8).flatMap (fun n => if Hdr.icnt f.act.hdr n == 0 then [] else (f.head n).filter (fun t => Sb.kind t.side == 0))
  let prl := match (List.range 8).find? (fun n => Hdr.ocnt f.act.hdr n != 0) with | some n => f.prls.getD n 1 | none => 1
  ((List.range toks.length).zip toks).map (fun p =>
    { ctx := f.ctx, actor := f.a, va := BitVec.ofNat 64 ((Config.memnodeAddr p.2.pay).toNat / 64 * 64)
      data := if Config.memnodeWrites p.2.pay then some (Config.memnodeData p.2.pay) else none
      side := Sb.mk 0 (p.1 % prl == 0) (p.1 % prl == prl - 1) f.l false (Sb.c p.2.side) (Sb.n p.2.side) (Sb.w p.2.side)
      num := tseqSection f.s f.r f.tile f.ctx (Hdr.sec f.act.hdr) })

/-- The side of a join whose record a firing takes: the one that is not filled. -/
def Fir.side (f : Fir) : Nat := if f.fill == some (Hdr.ja f.act.hdr) then Hdr.jb f.act.hdr else Hdr.ja f.act.hdr

/-- A firing counts in the phase that is open when it begins (R227). -/
def notePhase (s : State) (r ctx : Nat) (h : BitVec 128) (cost : Nat) : State :=
  updPhase s r ctx (fun p => { p with fires := sat64 (p.fires + 1), draw := sat64 (p.draw + cost)
                                      firstFire := p.firstFire.orElse (fun _ => if Hdr.secx h then some s.clock else none) })

/-- The end of a firing (R115, R122, R340, R354): consumption, emission, chains and gait, section counts, contributions. -/
def endFiring (f : Fir) (rearmed : Bool := false) : State :=
  let r := f.r
  let tile := f.tile
  let h := f.act.hdr
  let taken := f.mark.bind (fun n => (f.head n).head?)
  let moved := if f.mark.isSome || Hdr.join h == 0 then 0 else recordsIn f.s r tile f.side (f.head f.side).length
  let s := setTile f.s r tile { f.t with ctxs := f.t.ctxs.put f.ctx { f.c with actors := f.c.actors.put f.a f.act } }
  let s := consume f s
  let s := if moved == 0 then s else moveJoin s r tile f.ctx f.a moved
  let s := (List.range 8).foldl (fun s n => emitAt s r tile n (f.leaving n)) s
  let s := match taken with | some t => if t.mtype == 4 then markEffect s r tile f.ctx t else s | none => s
  let chains := f.chains ++ (if Hdr.memn h then [Hdr.chain h] else [])
  let s := updTile s r tile (fun t => chains.foldl (fun t k => { t with chains := t.chains.put k (t.chains.getD k {}).advance }) t)
  let s := match f.gait with | some g => actorGait s r tile g | none => s
  let s := match f.wset with | some w => updActor s r tile f.ctx f.a (fun a => { a with weight := w }) | none => s
  let s := if Hdr.memn h && f.mark.isNone then updTile s r tile (fun t => { t with reqs := t.reqs ++ memRequests f }) else s
  let s := countFiring s r tile f.ctx f.a (f.mark.isNone && !rearmed) f.halt
  let s := match taken with | some t => if t.mtype == 4 then s else markEffect s r tile f.ctx t | none => s
  let s := settleArm s r f.ctx (Hdr.sec h)
  let team := ((teamOf s r).getD {}).id
  f.radd.foldl (fun s x => radd s r team x.1 x.2.1 ((List.range 4).map (fun k => f.t.v.getD ((x.2.2 + k) % 16) 0))) s

/-- Whether a block reads endpoint iN as an operand (R316). -/
def readsInput (ws : List Word) (n : Nat) : Bool :=
  ws.any (fun w => (wordFields w).any (fun f => f.1 == 32 + n) || (modeEnds w).any (fun e => e.1 && e.2.1 == n))

/-- Records in use at the head of an input endpoint while a firing lasts (R138): those it consumes, or the one it reads with an ICNT
of 0. -/
def usedBy (s : State) (f : Fir) (n : Nat) : Nat :=
  match seenAt s f.r f.tile n with
  | .record _ =>
    if Hdr.icnt f.act.hdr n != 0 then (if f.mark.isSome then 0 else recordsIn s f.r f.tile n (f.head n).length)
    else if readsInput f.block n then 1 else 0
  | _ => 0

/-- A pending context switch, then a gait switch, begin once the tile's firing has ended (R92, R113). -/
def afterFiring (s : State) (r tile : Nat) : State :=
  retarget (updTile s r tile (startCtxSwitch s)) r tile

/-- A firing in progress, with the accesses it has made, after its first k words and at most n accesses more. -/
def resume (s : State) (r tile : Nat) (p : Firing) (k n : Nat) : Fir :=
  let f := { firOf s r tile p.actor p.mark p.fill p.heads p.chains with meta' := p.metas, got := p.io, more := n, free := p.free, struck := p.struck }
  (f.block.take k).foldl runWord f

/-- Words of a block that have begun by tile clock n, and that have ended by then. -/
def begunBy (ws : List Word) (n : Nat) : Nat := ((List.range ws.length).filter (fun k => decide (((ws.take k).map wordClocks).sum ≤ n))).length
def endedBy (ws : List Word) (n : Nat) : Nat := ((List.range ws.length).filter (fun k => decide (((ws.take (k + 1)).map wordClocks).sum ≤ n))).length

/-- Tile clocks of a firing that have passed before a clock. -/
def Firing.clocks (p : Firing) (g : BitVec 2) (now : Nat) : Nat := if g == 1 then (now - p.began) / 4 else now - p.began

/-- The firing in progress at a tile, and the words of its block. -/
def Tile.block (t : Tile) (p : Firing) : List Word := blockOf (t.ctxs.getD p.ctx {}).fire ((t.ctxs.getD p.ctx {}).actor p.actor).hdr

/-- A word that accesses the slice while it executes (R339, R356). -/
def usesSlice (w : Word) : Bool := (decide (0x50 ≤ Fw.op w) && decide (Fw.op w ≤ 0x53)) || Fw.op w == 0x60 || Fw.op w == 0x61

/-- The next n accesses of a firing are made, of those of its first k words. -/
def advanceFir (s : State) (r tile : Nat) (p : Firing) (k n : Nat) : State :=
  let f := resume s r tile p k n
  updTile f.s r tile (fun t => { t with fir := some { p with io := p.io ++ f.did, struck := f.struck } })

/-- Accesses of a firing in progress (R339): of the words that have begun. -/
def sliceTurn (s : State) (r tile n : Nat) : State :=
  let t := getTile s r tile
  match t.fir with
  | some p => advanceFir s r tile p (begunBy (t.block p) (p.clocks t.gait.cur s.clock)) n
  | none => s

/-- Before the clock passes to `now` every word that ends by then has made its accesses. -/
def sliceTick (s : State) (now : Nat) : State :=
  s.tiles.cells.foldl (fun s c => match c.2.fir with
    | some p =>
      let ws := c.2.block p
      let k := endedBy ws (p.clocks c.2.gait.cur now)
      if ((ws.take k).drop (endedBy ws (p.clocks c.2.gait.cur s.clock))).any usesSlice then advanceFir s (c.1 / 256) (c.1 % 256) p k (2 ^ 16) else s
    | none => s) s

/-- A firing ends (R115, R359): its last words end, and its effects complete. -/
def finishFiring (s : State) (r tile : Nat) (p : Firing) : State :=
  let f := resume s r tile p 16 (2 ^ 16)
  afterFiring (endFiring { f with t := { f.t with fir := none } } p.rearmed) r tile

/-- Whether a consumption may come on this clock: no later event of R143 has had it at a branch whose records it takes. -/
def mayConsume (s : State) (r tile : Nat) (h : BitVec 128) : Bool :=
  (List.range 8).all (fun n => Hdr.icnt h n == 0 || (match inBranch s r tile n with
    | some cb => (getBranch s cb.1 cb.2).mayAct s.clock 1
    | none => true))

/-- Whether a Reins tick of the region's team has come on this clock (R150). -/
def tickedNow (s : State) (r : Nat) : Bool :=
  ((teamOf s r).getD {}).regions.any (fun q => (getRegion s q).tick == s.clock && (getRegion s q).startClock != s.clock)

/-- Whether a firing may end on this clock: none that executes WSET ends after a Reins tick of its clock (R341). -/
def mayEnd (s : State) (r tile ctx : Nat) (h : BitVec 128) : Bool :=
  mayConsume s r tile h &&
    !((blockOf ((getTile s r tile).ctxs.getD ctx {}).fire h).any (fun w => Fw.op w == 0x41) && tickedNow s r)

/-- A firing (R115): the MMA words are checked (R346) and the draw is deducted. Of one tile clock, it ends on the clock on which it
begins; a longer one ends on its last tile clock (R359), by an ACTOR_FIRING of its own. An uncorrectable word that the check reads raises
MACHINE_CHECK (R357), and the firing does not begin. -/
def fire (s : State) (r tile a : Nat) (c : Ctx) (mark fill : Option Nat) : State :=
  let x := tryFire s r tile a mark fill
  let f := x.fir
  let h := f.act.hdr
  let s := x.chk.s
  if x.chk.struck then s
  else match x.bad with
  | some tv => parkActor (draw (setOpportunity s r tile c 0) r tile x.cost) r tile f.ctx a 0x0F tv
  | none =>
    let s := notePhase { s with free := f.free } r f.ctx h x.cost
    if f.clocks ≤ 1 then
      endFiring { f with
        s := draw s r tile x.cost
        c := { c with actors := c.actors.put a { f.act with credit := (c.actor a).credit } }
        act := { f.act with credit := (c.actor a).credit }
        t := { f.t with busy := s.clock + gaitClocks f.t.gait.cur f.clocks } }
    else
      updTile (draw (setOpportunity s r tile c f.clocks) r tile x.cost) r tile (fun t => { t with
        fir := some { ctx := f.ctx, actor := a, mark := mark, fill := fill, cost := x.cost, began := s.clock
                      fin := s.clock + gaitClocks t.gait.cur (f.clocks - 1), used := (List.range 8).map (usedBy s f)
                      heads := f.heads, chains := f.start, metas := x.chk.meta', free := x.chk.free } })

/-- The kind of step an action is. -/
inductive StepKind where
  | firing | marker | gap | ends
  deriving DecidableEq, Repr

def Todo.stepKind : Todo → StepKind
  | .fire _ _ => .firing
  | .pass _ => .marker
  | .ends => .ends
  | _ => .gap

/-- The END of one side: the other side's head goes, without output (R146). JOIN = TRAP raises JOIN_MISMATCH once. -/
def dropLong (s : State) (r tile ctx a long _short : Nat) : State :=
  let x := ((getTile s r tile).ctxs.getD ctx {}).actor a
  let onA := long == Hdr.ja x.hdr
  let pos := if onA then x.jb else x.ja
  let raised : Bool × State :=
    if Hdr.join x.hdr == 3 && !x.dropped then (let y := actorCause s r tile ctx a 0x11 (BitVec.ofNat 64 (pos % 2 ^ 48)); (y.1, y.2.2)) else (true, s)
  if !raised.1 then s
  else
    let s := raised.2
    let n : Nat := match seenAt s r tile long with | .gap g => g.cnt | _ => 1
    let s := match seenAt s r tile long with
      | .gap g => takeGap s r tile long g g.cnt
      | .record i => takeToks s r tile long i.toks.length
      | _ => s
    let s := match inBranch s r tile long with | some cb => updState s cb.1 cb.2 (fun b => { b with lenmis := true }) | none => s
    updActor s r tile ctx a (fun x => { x with dropped := true, ja := if onA then x.ja + n else x.ja, jb := if onA then x.jb else x.jb + n })

/-- Carry out the action of an opportunity whose draw has been made (steps other than firings). -/
def doStep (s : State) (r tile ctx a : Nat) (h : BitVec 128) : Todo → State
  | .fire _ _ => s
  | .pass n =>
    (match headOf s r tile h none none n with
      | t :: _ => markEffect (emitAll (takeMark s r tile n) r tile h t) r tile ctx t
      | [] => s)
  | .gaps x y =>
    let m := min x.cnt y.cnt
    let s := takeGap (takeGap s r tile (Hdr.ja h) x m) r tile (Hdr.jb h) y m
    moveJoin (emitAll s r tile h (gapTok { first := x.first, cnt := m, wt := share x.wt x.cnt m, cwt := share x.cwt x.cnt m })) r tile ctx a m
  | .out ge re g =>
    let w := match (headOf s r tile h none none re).head? with | some t => Sb.w t.side | none => 0
    let lost : Gap := if ge == Hdr.ja h then { first := g.first, cnt := 1, wt := share g.wt g.cnt 1, cwt := share g.cwt g.cnt 1 }
      else { first := g.first, cnt := 1, wt := w }
    let s := match seenAt s r tile re with | .record i => takeToks s r tile re i.toks.length | _ => s
    moveJoin (emitAll (takeGap s r tile ge g 1) r tile h (gapTok lost)) r tile ctx a 1
  | .park =>
    let x := ((getTile s r tile).ctxs.getD ctx {}).actor a
    parkActor s r tile ctx a 0x11 (BitVec.ofNat 64 (x.ja % 2 ^ 48))
  | .drop l sh => dropLong s r tile ctx a l sh
  | .ends =>
    let s := takeMark (takeMark s r tile (Hdr.ja h)) r tile (Hdr.jb h)
    let s := emitAll s r tile h (markTok 2 0)
    updActor s r tile ctx a (fun x => { x with ja := 0, jb := 0, dropped := false })

/-- What a tile may do on this clock at a firing opportunity (R102, R117, R143): the actor picked, the context after it, its action, and what it
draws; a park draws nothing. -/
structure Chance where
  actor : Nat := 0
  ctx : Ctx := {}
  todo : Todo := .park
  cost : Option Nat := none

def chanceAt (s : State) (r tile : Nat) : Option Chance :=
  let t := getTile s r tile
  let c := t.ctxs.getD t.active {}
  if !intervalOpen s then none
  else match arbitrate c (readyActors s r tile t) with
  | none => none
  | some p =>
    let h := (c.actor p.1).hdr
    let todo := todoOf s r tile (c.actor p.1)
    let holds (cost : Nat) : Bool := (getRegion s r).pool.holds cost
    match todo with
    | .park => some { actor := p.1, ctx := p.2, todo := todo }
    | .fire m f =>
      let x := tryFire s r tile p.1 m f
      if holds x.cost && (x.bad.isSome || decide (1 < x.fir.clocks) || mayEnd s r tile t.active h) then
        some { actor := p.1, ctx := p.2, todo := todo, cost := some x.cost } else none
    | _ =>
      let cost := gaitCost t.gait.cur 1
      if holds cost && mayConsume s r tile h then some { actor := p.1, ctx := p.2, todo := todo, cost := some cost } else none

/-- Whether a tile's turn in the rotation has come: no tile between the one that drew last and it can draw now. -/
def drawTurn (s : State) (r tile : Nat) : Bool :=
  let p := (getRegion s r).pool
  let place (k : Nat) : Nat := (k + 511 - p.last) % 256
  s.tiles.cells.all (fun c => c.1 / 256 != r || decide (place tile ≤ place (c.1 % 256)) ||
    (match chanceAt s r (c.1 % 256) with | some x => x.cost.isNone | none => true))

/-- A tile's opportunity (R102, R117): the pick acts if its action is of the kind asked for, its turn in the rotation has come and
the pool holds its cost; otherwise nothing changes. -/
def opportunity (s : State) (r tile : Nat) (k : StepKind) : State :=
  let t := getTile s r tile
  match chanceAt s r tile with
  | none => s
  | some x =>
    let h := ((t.ctxs.getD t.active {}).actor x.actor).hdr
    if x.todo.stepKind != k then s
    else match x.cost with
      | none => doStep (setOpportunity s r tile x.ctx 0) r tile t.active x.actor h x.todo
      | some cost =>
        if !drawTurn s r tile then s
        else match x.todo with
          | .fire m f => fire s r tile x.actor x.ctx m f
          | _ => doStep (draw (setOpportunity s r tile x.ctx 1) r tile cost) r tile t.active x.actor h x.todo

/-- Whether a firing in progress ends on this clock. -/
def endsNow (s : State) (r tile : Nat) (t : Tile) (p : Firing) : Bool :=
  decide (p.fin ≤ s.clock) && mayEnd s r tile p.ctx ((t.ctxs.getD p.ctx {}).actor p.actor).hdr

/-- ACTOR_FIRING (R115–R117, R359): a firing in progress ends once its last tile clock has come; with none, the pick fires. -/
def execActorFiring (r : RegionId) (tile : TileId) (s : State) : Out' :=
  runStep (fun s => match (getTile s r.toNat tile.toNat).fir with
    | some p => if endsNow s r.toNat tile.toNat (getTile s r.toNat tile.toNat) p then finishFiring s r.toNat tile.toNat p else s
    | none => opportunity s r.toNat tile.toNat .firing) s

/-- MARKER_STEP (R144). -/
def execMarkerStep (r : RegionId) (tile : TileId) (s : State) : Out' := runStep (fun s => opportunity s r.toNat tile.toNat .marker) s

/-- JOIN_GAP_STEP (R145, R146): a position that holds a gap, a discard, or a park by JOIN_MISMATCH. -/
def execJoinGapStep (r : RegionId) (tile : TileId) (s : State) : Out' := runStep (fun s => opportunity s r.toNat tile.toNat .gap) s

/-- JOIN_END (R146): both sides hold END. -/
def execJoinEnd (r : RegionId) (tile : TileId) (s : State) : Out' := runStep (fun s => opportunity s r.toNat tile.toNat .ends) s

/-! ### Memory-node actors (R159, R163) -/

/-- A memory-node actor parks at its first faulting request, or after a watched access (R162, R163, R164). -/
def parkNode (s : State) (r tile : Nat) (q : MReq) (t : Team) (f : XFault) : State :=
  let kind := if q.data.isSome then 1 else 0
  let e := faultEntry f.va f.code.toNat 1 kind t.atag r tile (q.ctx * 64 + q.actor * 16) f.mal f.lvl q.num 0
  let s := updActor s r tile q.ctx q.actor (fun a => { a with park := some { va := f.va, cause := f.code, kind := BitVec.ofNat 2 kind, num := q.num, mal := f.mal, lvl := f.lvl } })
  postFault s (regionDie r) e

/-- Perform a request at its home (R179): the payload of its response. -/
def performReq (s : State) (q : MReq) (ps : List Piece) : Line × State :=
  match q.data with
  | some d => (Config.freeLine s.free, writePieces { s with free := s.free + 1 } ps (toBytes d 64))
  | none => (BitVec.ofNat 512 (ofBytes (readPieces s ps)), s)

/-- MEMNODE_RESPONSE: the first request of an actor that is not parked is performed at its home, and its response token leaves. -/
def execMemnodeResponse (r : RegionId) (tile : TileId) (s : State) : Out' :=
  runStep (fun s =>
    let r := r.toNat
    let tile := tile.toNat
    let t := getTile s r tile
    match teamOf s r, t.reqs.find? (fun q => ((t.ctxs.getD q.ctx {}).actor q.actor).park.isNone) with
    | some tm, some q =>
      let k : Acc := if q.data.isSome then .write else .read
      let sp := { tm.space tm.svm with reg := r }
      withEngine s sp q.va 64 k (fun s =>
      match engineXl s sp q.va 64 k with
      | .error f => parkNode s r tile q tm f
      | .ok ps =>
        match (if q.data.isNone then badAt s ps else none) with
        | some va => engineCheck s tm.id va
        | none =>
          let x := performReq (accountPieces s ps) q ps
          let s := updTile x.2 r tile (fun t => { t with reqs := t.reqs.erase q })
          let h := ((t.ctxs.getD q.ctx {}).actor q.actor).hdr
          let s := match (List.range 8).find? (fun n => Hdr.ocnt h n != 0) with
            | some n => emitResponse s r tile n ⟨x.1, q.side⟩
            | none => s
          match watchPieces s tm.atag ps k with
          | some va => parkNode s r tile q tm { va := va, code := 0x06 }
          | none => s)
    | _, _ => s) s
where
  /-- A response leaves; those of one record go as one, which lands with its last. -/
  emitResponse (s : State) (r tile n : Nat) (t : Tok) : State :=
    match outChan s r tile n with
    | none => s
    | some ch =>
      if Sb.h t.side then emitRecord s ch [t]
      else
        let c := getChan s ch
        let left := max s.clock c.next
        setChan s ch { c with next := left + 1, branches := c.branches.map (fun b => match b.flight.reverse with
          | l :: rest => ({ b with flight := rest.reverse } : Branch).send s c left (l.toks ++ [t])
          | [] => b.send s c left [t]) }

/-! ### The draw interval (R102, R103) -/

/-- What a region wants (R103). -/
def wantOf (s : State) (r : Nat) : Nat :=
  match teamOf s r with
  | none => 0
  | some t =>
    let awake := s.tiles.cells.any (fun c => c.1 / 256 == r && (c.2.gait.cur != 0))
    if t.energy.exh || !awake then 0
    else
      let v := (getRegion s r).pool.curb
      if (getDie s (regionDie r)).throttle then v / 2 else v

/-- The largest level at which the wants fit the budget. -/
def levelGo (ws : List Nat) (budget : Nat) : Nat → Nat → Nat
  | 0, l => l
  | k + 1, l => levelGo ws budget k (if ((ws.map (fun w => min w (l + 2 ^ k))).sum) ≤ budget then l + 2 ^ k else l)

/-- The grants of an interval. -/
def grants (ws : List Nat) (budget : Nat) : List Nat :=
  if ws.sum ≤ budget then ws
  else
    let l := levelGo ws budget 41 0
    let base := ws.map (fun w => min w l)
    ((ws.zip base).foldl (fun (acc : List Nat × Nat) p =>
      if l < p.1 && 0 < acc.2 then (acc.1 ++ [p.2 + 1], acc.2 - 1) else (acc.1 ++ [p.2], acc.2)) ([], budget - base.sum)).1

/-- DRAW_INTERVAL (R102, R103): once in 1 µs every pool is set to its grant and the debt it carries. -/
def execDrawInterval (s : State) : Out' :=
  runStep (fun s =>
    if intervalOpen s then s
    else
      let rs := List.range Config.regions
      let gs := grants (rs.map (wantOf s)) s.power.budget
      let s := (rs.zip gs).foldl (fun s g =>
        let p := (getRegion s g.1).pool
        if g.2 == 0 && p == { p with tokens := 0, grant := 0, drawn := false } then s
        else updRegion s g.1 (fun x => { x with pool := { x.pool with tokens := (g.2 : Int) + min x.pool.tokens 0, grant := g.2, drawn := false,
                                                                      debt := x.pool.debt && decide ((g.2 : Int) + min x.pool.tokens 0 ≤ 0) } })) s
      { s with power := { s.power with interval := s.power.interval + 1000 } }) s

/-! ### The Reins (R150, R151) -/

/-- An actor's place: region, tile, context, actor. -/
abbrev Site := Nat × Nat × Nat × Nat

/-- One coupled branch at a tick: the branch with its integrator, and the changes of weight it asks for. -/
def reinsBranch (s : State) (ch br : Nat) : State × List (Site × Int) :=
  let c := getChan s ch
  let b := getBranch s ch br
  let e : Int := max (-128) (min 127 ((b.occ : Int) - Br.setpt b.word))
  let integ : Int := if decide (0 < b.occ) && !b.full c.head then max (-2048) (min 2047 (b.st.integ + e)) else b.st.integ
  let u : Int := (Br.kp b.word * e + Br.ki b.word * integ) / 4096
  let s := updState s ch br (fun t => { t with integ := integ })
  let prod : List (Site × Int) := if c.prod == 0 then [((c.preg, c.ptile, c.ctx, Head.pact c.head), -u)] else []
  let x := consTile s c b
  let cons : List (Site × Int) := if b.kind != 0 then [] else
    match consActor s x.1 x.2 (Br.cep b.word) with
    | some a => [((x.1, x.2, a.1, a.2), u)]
    | none => []
  (s, prod ++ cons)

/-- Whether a region's Reins run: its team runs, and has been STARTED there (R150). -/
def reinsRun (s : State) (r : Nat) : Bool :=
  match teamOf s r with
  | some t => t.state == .running || t.state == .retiring || (t.state == .saving && !t.leave.quiet)
  | none => false

/-- Whether a tick of a region's Reins falls on this clock: a multiple of the interval, counted from START, that has not been made (R150). -/
def tickDue (s : State) (r : Nat) : Bool :=
  let g := getRegion s r
  reinsRun s r && decide (g.tick < s.clock) && (s.clock - g.tick) % 2 ^ g.civ == 0

/-- The live coupled branches whose consumer stands in a region: channel and branch. -/
def coupledAt (s : State) (r : Nat) : List (Nat × Nat) :=
  s.chans.cells.flatMap (fun k => if !k.2.live then [] else
    (k.2.indexed.filter (fun b => Br.cen b.2.word && k.2.prod != 3 && !b.2.remote && b.2.kind != 2 && b.2.kind != 3 && (consTile s k.2 b.2).1 == r)).map (fun b => (k.1, b.1)))

/-! ### The order of a clock (R143, R359) -/

/-- Whether a tile still has something to do on this clock: a firing that ends, or an opportunity (R117). -/
def tileOwes (s : State) (r tile : Nat) : Bool :=
  let t := getTile s r tile
  match t.fir with
  | some p => endsNow s r tile t p
  | none => (chanceAt s r tile).isSome

/-- The tiles that do, by region·256 + tile. -/
def owingTiles (s : State) : List Nat := (s.tiles.cells.map (·.1)).filter (fun k => tileOwes s (k / 256) (k % 256))

/-- Whether the Drover of a region still has a strand to issue on this clock (R68). -/
def owesIssue (s : State) (r : Nat) : Bool := (getRegion s r).issued != some s.clock && (nextStrand s r).isSome

/-- Whether what consumes on a branch has done what it does on this clock, which comes before what arrives on it (R143). -/
def consumerDone (s : State) (c : Chan) (b : Branch) : Bool :=
  let x := consTile s c b
  if b.kind == 0 && !b.remote then !tileOwes s x.1 x.2 else if b.kind == 1 then !owesIssue s x.1 else true

/-- RECORD_ARRIVE (R136): the record or marker longest on its way lands. -/
def execRecordArrive (chid : Chid) (br : BitVec 2) (s : State) : Out' :=
  runStep (fun s =>
    let ch := chid.toNat
    let n := br.toNat
    let b := getBranch s ch n
    match b.arrival s.clock with
    | some x =>
      if !b.mayAct s.clock 3 || !consumerDone s (getChan s ch) b then s
      else
        let s := updBranch s ch n (fun b => { b with flight := x.2, lastIn := s.clock + 1 })
        stamp (arriveToks s ch n x.1.toks) ch n 3
    | none => s) s

/-- SPILL_MOVE (R139). -/
def execSpillMove (chid : Chid) (br : BitVec 2) (s : State) : Out' :=
  runStep (fun s =>
    let b := getBranch s chid.toNat br.toNat
    if b.mayAct s.clock 2 && consumerDone s (getChan s chid.toNat) b then spillMove s chid.toNat br.toNat else s) s

/-- Whether a Reins tick of a region may come: what else happens on this clock at its team's tiles and at the branches that it reads has (R143,
R341). -/
def tickFree (s : State) (r : Nat) : Bool :=
  (s.tiles.cells.all (fun c => !((teamOf s r).getD {}).regions.contains (c.1 / 256) || !tileOwes s (c.1 / 256) (c.1 % 256)))
    && (coupledAt s r).all (fun b => !(getBranch s b.1 b.2).landsBy s.clock)

/-- REINS_TICK (R150): the region's coupled branches, then the weights of the actors at their ends. -/
def execReinsTick (r : RegionId) (s : State) : Out' :=
  runStep (fun s =>
    if !tickDue s r.toNat || !tickFree s r.toNat then s
    else
      let s := bump (updRegion s r.toNat (fun g => { g with tick := s.clock })) r.toNat 24 1
      let x := (coupledAt s r.toNat).foldl (fun (acc : State × List (Site × Int)) b => let y := reinsBranch acc.1 b.1 b.2; (stamp y.1 b.1 b.2 4, acc.2 ++ y.2)) (s, [])
      let sites := (x.2.map (·.1)).eraseDups
      sites.foldl (fun s q =>
        let a := ((getTile s q.1 q.2.1).ctxs.getD q.2.2.1 {}).actor q.2.2.2
        let w : Int := (a.weight : Int) + ((x.2.filter (fun d => d.1 == q)).map (·.2)).sum
        let w' : Int := max 1 (min 255 w)
        let s := if w' != w then bump s r.toNat 32 1 else s
        updActor s q.1 q.2.1 q.2.2.1 q.2.2.2 (fun a => { a with weight := w'.toNat })) x.1) s

/-! ### What a clock owes (log 5) -/

/-- Whether a draw interval has run out while a tile is awake (R102). -/
def intervalOwes (s : State) : Bool := !intervalOpen s && s.tiles.vals.any (fun t => t.gait.cur != 0)

/-- Events that fall on this clock at the latest, beside the issue of the Drovers: the ends and opportunities of the tiles, then the landings of
records, then the Reins ticks, the ends of gait and context switches, and the draw interval. -/
def owedEvent (s : State) : Option Instr :=
  let ofTile (k : Nat) : Instr :=
    let r := BitVec.ofNat 7 (k / 256)
    let t := BitVec.ofNat 8 (k % 256)
    if (getTile s (k / 256) (k % 256)).fir.isSome then .actorFiring r t
    else match (chanceAt s (k / 256) (k % 256)).map (fun x : Chance => x.todo.stepKind) with
      | some .marker => .markerStep r t
      | some .gap => .joinGapStep r t
      | some .ends => .joinEnd r t
      | _ => .actorFiring r t
  let free := (owingTiles s).find? (fun k => match (getTile s (k / 256) (k % 256)).fir, chanceAt s (k / 256) (k % 256) with
    | none, some x => x.cost.isNone || drawTurn s (k / 256) (k % 256)
    | _, _ => true)
  match free with
  | some k => some (ofTile k)
  | none =>
  match s.chans.cells.findSome? (fun c => (c.2.indexed.find? (fun b => b.2.landsBy s.clock && b.2.mayAct s.clock 3 && consumerDone s c.2 b.2)).map (fun b => (c.1, b.1))) with
  | some x => some (.recordArrive (BitVec.ofNat 16 x.1) (BitVec.ofNat 2 x.2))
  | none =>
  match (s.regions.cells.map (·.1)).find? (fun r => tickDue s r && tickFree s r) with
  | some r => some (.reinsTick (BitVec.ofNat 7 r))
  | none =>
  match s.tiles.cells.find? (fun c => c.2.fir.isNone && (match c.2.gait.sw with | some x => decide (x.2 ≤ s.clock) | none => false)) with
  | some c => some (.gaitSwitchComplete (BitVec.ofNat 7 (c.1 / 256)) (BitVec.ofNat 8 (c.1 % 256)))
  | none =>
  match s.tiles.cells.find? (fun c => c.2.fir.isNone && (match c.2.csw with | some x => decide (x.2.1 ≤ s.clock) | none => false)) with
  | some c => some (.contextSwitchComplete (BitVec.ofNat 7 (c.1 / 256)) (BitVec.ofNat 8 (c.1 % 256)))
  | none => if intervalOwes s then some .drawInterval else none

/-- Whether nothing but the clock moves at tiles and channels for n clocks more: no tile is awake, no record on its way is bound to a clock, no
switch, firing or tick falls within them. -/
def stillFor (s : State) (n : Nat) : Bool :=
  s.tiles.vals.all (fun t => t.gait.cur == 0 && t.gait.sw.isNone && t.csw.isNone && t.fir.isNone)
    && s.chans.vals.all (fun c => c.branches.all (fun b => b.flight.all (fun f => f.last.isNone)))
    && s.regions.cells.all (fun c => !reinsRun s c.1 || decide (s.clock - c.2.tick + n ≤ (s.clock - c.2.tick) / 2 ^ c.2.civ * 2 ^ c.2.civ + 2 ^ c.2.civ))

end Sys2Proof.Machine
end

