-- ==== Sys2Proof/Machine/Commands.lean ====
section
/-! DEFINITION. Stream commands as they begin, are checked (R294) and retire (R295–R311, R315), with the steps of the stream ports
that FEED and DRAIN set going. -/

namespace Sys2Proof.Machine

/-! ### What every command shares -/

/-- The command in progress retires (R295). -/
def retireCur (s : State) : State := retireNumber s s.cur.reg.toNat s.cur.num

/-- The command in progress has not begun after all, or a load not ended: it is tried again later. -/
def unbegin (s : State) : State :=
  let mark (l : List QCmd) : List QCmd :=
    l.map (fun c => if c.num == s.cur.num then { c with begun := isLoad c.word, loading := isLoad c.word } else c)
  updRegion s s.cur.reg.toNat (fun g => { g with cmds := { g.cmds with queues := g.cmds.queues.mapVals (fun _ l => mark l), atOnce := mark g.cmds.atOnce } })

/-- CONFIG_INVALID with a check record (R212, R294): the command retires; with 16 causes pending it waits. -/
def configInvalid (s : State) (record : Word) : State :=
  let r := s.cur.reg.toNat
  let q := s.cur.num
  let x := pendAsync s (causeStrand s r q) { code := 0x12, tval := record, tseq := q }
  if x.1 then retireCur x.2 else unbegin s

def cmdFail (s : State) (chk det : Nat) : State := configInvalid s (checkRecord 0 chk 0 0 det)

/-- Check 21 (R294): `v`, at bit `base` of the command, must be zero. -/
def mustBeZero (s : State) (v base : Nat) (cont : State → State) : State :=
  if v = 0 then cont s else cmdFail s 21 (base + ((List.range 64).find? (fun k => v / 2 ^ k % 2 == 1)).getD 0)

/-- The tiles that RECT names, or check 18 (R293). -/
def withRect (s : State) (rect : Word) (cont : List (Nat × Nat) → State → State) : State :=
  let r := rectOf rect
  if !r.empty && !r.inTeam (myTeam s) then cmdFail s 18 0 else cont (rectTiles (myTeam s) s.cur.reg.toNat r) s

/-- Read n bytes of a descriptor as the command begins (R293); a fault is check 17 with DET all ones. -/
def withDesc (s : State) (va : Word) (n : Nat) (cont : List Byte → State → State) : State :=
  let t := myTeam s
  let c := t.spaceAt t.svm s.cur.reg.toNat
  if engineBlocked s c va n .read then unbegin (engineQueue s c va n .read)
  else
    let s := enginePrep s c va n .read
    match engineXl s c va n .read with
    | .error _ => cmdFail s 17 0xFFFFFFFF
    | .ok ps => match badAt s ps with
      | some bad => engineCheck s t.id bad
      | none => cont (readPieces s ps) (accountPieces s ps)

def getPort (s : State) (r p : Nat) : Port := (getRegion s r).ports.getD p {}

/-- A channel of the command's team, and its branch (R294, check 18). -/
def withBranch (s : State) (chid : Chid) (br : Nat) (cont : Chan → Branch → State → State) : State :=
  match s.chans.find? chid.toNat with
  | some c =>
    if c.live && c.team == (myTeam s).id then
      (match c.branches[br]? with
        | some b => cont c b s
        | none => cmdFail s 18 0)
    else cmdFail s 18 0
  | none => cmdFail s 18 0

/-! ### Access patterns (R297) -/

def patternOf (bs : List Byte) : Pattern :=
  let w (k : Nat) : Nat := ofBytes ((bs.drop (8 * k)).take 8)
  { base := BitVec.ofNat 64 (w 0)
    counts := (List.range 4).map (fun l => w 1 / 2 ^ (16 * l) % 65536) ++ [w 2 % 65536, w 2 / 65536 % 65536]
    lsel := w 2 / 2 ^ 32 % 8
    strides := (List.range 6).map (fun k => BitVec.ofNat 32 (w (3 + k / 2) / 2 ^ (32 * (k % 2)))) }

/-- The byte offset of the first bad field of a descriptor. -/
def patternBad (bs : List Byte) : Option Nat :=
  let w (k : Nat) : Nat := ofBytes ((bs.drop (8 * k)).take 8)
  let p := patternOf bs
  if w 0 % 8 != 0 then some 0
  else if decide (6 ≤ p.lsel) || w 2 / 2 ^ 35 != 0 then some 20
  else match (List.range 6).find? (fun k => (p.strides.getD k 0).toNat % 8 != 0) with
    | some k => some (24 + 4 * k)
    | none => if w 6 != 0 then some 48 else if w 7 != 0 then some 56 else none

def Pattern.count (p : Pattern) (l : Nat) : Nat := max 1 (p.counts.getD l 0)

/-- Tokens of one round of the pattern. -/
def Pattern.total (p : Pattern) : Nat := (List.range 6).foldl (fun n l => n * p.count l) 1

/-- A position as a count of tokens, and back: level 0 is innermost. -/
def Pattern.linear (p : Pattern) (pos : List Nat) : Nat := (List.range 6).reverse.foldl (fun n l => n * p.count l + pos.getD l 0) 0

def unLinear (p : Pattern) : Nat → Nat → Nat → List Nat
  | 0, _, _ => []
  | k + 1, l, n => n % p.count l :: unLinear p k (l + 1) (n / p.count l)

/-- Advance a port's position by n tokens. -/
def Port.advance (x : Port) (n : Nat) : Port :=
  match x.pat with
  | some p =>
    let m := p.linear x.pos + n
    { x with pos := unLinear p 6 0 (m % p.total), wrap := decide (p.total ≤ m) }
  | none => x

/-- The block of the next token: BASE + OFF + Σ I·STRIDE (R297). -/
def Port.block (x : Port) (off : Word) : Word :=
  match x.pat with
  | some p => (List.range 6).foldl (fun a l => a + BitVec.ofNat 64 (x.pos.getD l 0) * (p.strides.getD l 0).signExtend 64) (p.base + off)
  | none => off

/-- Whether level LSEL is in its last iteration. -/
def Port.lastOfLevel (x : Port) : Bool :=
  match x.pat with
  | some p => (List.range (p.lsel + 1)).all (fun k => x.pos.getD k 0 + 1 == p.count k)
  | none => false

/-! ### BIND, FEED, DRAIN (R298–R300) -/

/-- BIND (R298). -/
def execBind (p : BitVec 5) (pat : Word) (s : State) : Out' :=
  runStep (fun s =>
    let r := s.cur.reg.toNat
    mustBeZero s (bitsN pat 0 6) 0 (fun s =>
      if (outPort s r p.toNat).isNone && (inPort s r p.toNat).isNone then cmdFail s 18 0
      else withDesc s pat 64 (fun bs s => match patternBad bs with
        | some d => cmdFail s 17 d
        | none => retireCur (updPort s r p.toNat (fun x => { x with pat := some (patternOf bs), pos := List.replicate 6 0, wrap := false, eos := true
                                                                    lastNum := s.cur.num }))))) s

/-- FEED begins (R299). -/
def execFeed (p : BitVec 5) (rst sc e : Bool) (n : Word32) (off : Word) (s : State) : Out' :=
  runStep (fun s =>
    let r := s.cur.reg.toNat
    mustBeZero s (bitsN off 0 3) 0 (fun s =>
      match outPort s r p.toNat with
      | none => cmdFail s 18 0
      | some ch =>
        let h := (getChan s ch).head
        let px := match Ty.ofCode (Head.pfmt h) with | some t => t.isPx | none => false
        if (getPort s r p.toNat).pat.isNone || n.toNat % Head.prl h != 0 || (sc && !px) then cmdFail s 19 0
        else updPort s r p.toNat (fun x =>
          { x with eos := false, lastNum := s.cur.num
                   pos := if rst then List.replicate 6 0 else x.pos, wrap := if rst then false else x.wrap
                   run := some { num := s.cur.num, left := if n = 0 then none else some n.toNat, off := off, sc := sc, e := e } }))) s

/-- DRAIN begins (R300). -/
def execDrain (p : BitVec 5) (rst gs : Bool) (n : Word32) (off : Word) (s : State) : Out' :=
  runStep (fun s =>
    let r := s.cur.reg.toNat
    mustBeZero s (bitsN off 0 3) 0 (fun s =>
      if (inPort s r p.toNat).isNone then cmdFail s 18 0
      else if (getPort s r p.toNat).pat.isNone then cmdFail s 19 0
      else updPort s r p.toNat (fun x =>
        { x with eos := false, lastNum := s.cur.num
                 pos := if rst then List.replicate 6 0 else x.pos, wrap := if rst then false else x.wrap
                 run := some { num := s.cur.num, drain := true, left := if n = 0 then none else some n.toNat, off := off, gs := gs } }))) s

/-- A stream port parks (R162, R164). -/
def parkPort (s : State) (r p : Nat) (t : Team) (k : Acc) (num : Nat) (f : XFault) : State :=
  let e := faultEntry f.va f.code.toNat 3 k.kind t.atag r 0 p f.mal f.lvl num 0
  let s := updPort s r p (fun x => { x with park := some { va := f.va, cause := f.code, kind := BitVec.ofNat 2 k.kind, num := num, mal := f.mal, lvl := f.lvl } })
  postFault s (regionDie r) e

/-- A watch hit parks the port after the access. -/
def portWatch (s : State) (r p : Nat) (t : Team) (k : Acc) (num : Nat) (ps : List Piece) : State :=
  match watchPieces s t.atag ps k with
  | some va => parkPort s r p t k num { va := va, code := 0x06 }
  | none => s

/-- The running command of a port retires. -/
def endRun (s : State) (r p num : Nat) (eos : Bool) : State :=
  retireNumber (updPort s r p (fun x => { x with run := none, eos := x.eos || eos })) r num

/-- Emit a DATA or SCALE token at a port: the record leaves with its last token. -/
def portEmit (s : State) (r p ch : Nat) (t : Tok) : State :=
  let prl := Head.prl (getChan s ch).head
  let part := (getPort s r p).part ++ [(t.pay, t.side)]
  if decide (prl ≤ part.length) then emitLast (updPort s r p (fun x => { x with part := [] })) ch 1 (part.map (fun q => ⟨q.1, q.2⟩))
  else emitPart (updPort s r p (fun x => { x with part := part })) ch

/-- The team of a region, when its ports and engines may start work: running, or saving and not yet quiet (R216). -/
def engineTeam (s : State) (r : Nat) : Option Team := (teamOf s r).filter (fun t => t.state == .running || (t.state == .saving && !t.leave.quiet))

/-- FEED_TOKEN (R299): one token is read and emitted. -/
def execFeedToken (r : RegionId) (p : BitVec 5) (s : State) : Out' :=
  runStep (fun s =>
    let r := r.toNat
    let p := p.toNat
    let x := getPort s r p
    match x.run, engineTeam s r, outPort s r p with
    | some j, some t, some ch =>
      if j.drain || x.park.isSome || t.leave.closed then s
      else
        let va := x.block j.off
        withEngine s (t.spaceAt t.svm r) va 64 .read (fun s => match engineXl s (t.spaceAt t.svm r) va 64 .read with
        | .error f => parkPort s r p t .read j.num f
        | .ok ps => match badAt s ps with
          | some bad => engineCheck s t.id bad
          | none =>
            let h := (getChan s ch).head
            let k := x.part.length
            let pay : Line := BitVec.ofNat 512 (ofBytes (readPieces s ps))
            let side := Sb.mk (if j.sc && k == 0 then 1 else 0) (k == 0) (k + 1 == Head.prl h) x.lastOfLevel false false false 1
            let s := portEmit (accountPieces s ps) r p ch ⟨pay, side⟩
            let s := updPort s r p (fun x => { x.advance 1 with run := some { j with left := j.left.map (· - 1) } })
            let fin := match j.left with | some n => decide (n ≤ 1) | none => (getPort s r p).wrap
            let s := if fin then endRun (if j.e then emitRecord s ch [markTok 2 0] else s) r p j.num j.e else s
            portWatch s r p t .read j.num ps)
    | _, _, _ => s) s

/-- Take one token of the record at a port's head: its payload, and the state after (R136, R138). -/
def takePortTok (s : State) (r p : Nat) (cb : Nat × Nat) (i : Item) : State :=
  let k := (getPort s r p).place
  if decide (i.toks.length ≤ k + 1) then
    releaseCheck (popItem (updPort s r p (fun x => { x with place := 0 })) cb.1 cb.2) cb.1 cb.2
  else updPort s r p (fun x => { x with place := k + 1 })

/-- DRAIN_TOKEN (R300): one token or marker is taken. -/
def execDrainToken (r : RegionId) (p : BitVec 5) (s : State) : Out' :=
  runStep (fun s =>
    let r := r.toNat
    let p := p.toNat
    let x := getPort s r p
    match x.run, engineTeam s r, inPort s r p with
    | some j, some t, some cb =>
      if !j.drain || x.park.isSome then s
      else
        let b := getBranch s cb.1 cb.2
        if !b.mayAct s.clock 1 then s
        else match b.seen s.clock with
        | .nothing => s
        | .gap g =>
          let s := popGap s cb.1 cb.2 none
          if j.gs then updPort s r p (fun x => x.advance (g.cnt * b.lc (getChan s cb.1).head)) else s
        | .mark m =>
          let s := popItem s cb.1 cb.2
          if m.mtype == 2 then endRun s r p j.num true else s
        | .record i =>
          let va := x.block j.off
          withEngine s (t.spaceAt t.svm r) va 64 .write (fun s => match engineXl s (t.spaceAt t.svm r) va 64 .write with
          | .error f => parkPort s r p t .write j.num f
          | .ok ps =>
            let pay : Line := match i.toks[x.place]? with | some k => k.pay | none => 0
            let s := accountPieces (writePieces s ps (toBytes pay 64)) ps
            let s := takePortTok s r p cb i
            let s := updPort s r p (fun x => { x.advance 1 with run := some { j with left := j.left.map (· - 1) } })
            let s := match j.left with | some n => if decide (n ≤ 1) then endRun s r p j.num false else s | none => s
            portWatch s r p t .write j.num ps)
    | _, _, _ => s) s

/-! ### CFG, CFGTOK (R301, R302) -/

/-- The registration that a CFG of a team means (R44): a live team keeps its own. -/
def cfgImage (s : State) (t : Team) (id : Word32) : Option Image :=
  if id == t.cfgid && t.image.serial != 0 then some t.image else s.ost.images.find? id.toNat

/-- CFG (R302). -/
def execCfg (ctx : BitVec 2) (id : Word32) (rect : Word) (s : State) : Out' :=
  runStep (fun s =>
    let t := myTeam s
    let r := s.cur.reg.toNat
    let q := rectOf rect
    if !q.empty && !q.inTeam t then cmdFail s 18 0
    else
      let area : Rect := if q.empty then ⟨16 * (r % 16 - t.x), 16 * (r / 16 - t.y), 16, 16⟩ else q
      match cfgImage s t id with
      | none => cmdFail s 16 id.toNat
      | some i => match cacheFetch s (regionDie r) i imageReads with
        | none => unbegin s
        | some x => match readImage x.1 with
          | .error d => cmdFail x.2 15 d
          | .ok m => match checkImage x.2 t ctx.toNat (some area) m with
            | some w => configInvalid x.2 w
            | none => retireCur (installImage x.2 t ctx.toNat (some area) m)) s

/-- CFGTOK (R301). -/
def execCfgtok (p : BitVec 5) (ch : BitVec 2) (kind : Bool) (desc : Word) (s : State) : Out' :=
  runStep (fun s =>
    let r := s.cur.reg.toNat
    let out := outPort s r p.toNat
    mustBeZero s (bitsN desc 0 6) 0 (fun s =>
      if out.isNone && (inPort s r p.toNat).isNone then cmdFail s 18 0
      else if !(getPort s r p.toNat).eos then cmdFail s 19 0
      else match kind, out with
        | false, _ => withDesc s desc 64 (fun bs s => match patternBad bs with
          | some d => cmdFail s 17 d
          | none => retireCur (updPort s r p.toNat (fun x => { x with pat := some (patternOf bs), pos := List.replicate 6 0, wrap := false })))
        | true, none => cmdFail s 19 0
        | true, some c => withDesc s desc 56 (fun bs s =>
          let w : Word := BitVec.ofNat 64 (ofBytes (bs.take 8))
          if bitsN w 4 28 != 0 || decide (6 ≤ bitsN w 0 3) then cmdFail s 17 0
          else retireCur (emitRecord s c [markTok 3 (ch.toNat * 16 + ofBytes bs * 2 ^ 64)])))) s

/-! ### ARM, START, SWITCH, BARRIER (R303, R304) -/

/-- ARM (R121, R303): a firing in progress is not counted against the new counts. -/
def execArm (ctx : BitVec 2) (sec : BitVec 4) (count : Word32) (s : State) : Out' :=
  runStep (fun s =>
    let r := s.cur.reg.toNat
    let q := s.cur.num
    let c := ctx.toNat
    let k := sec.toNat
    let none' := (sectActors s r c k).isEmpty
    let waits := count != 0 && !none'
    let x : Sect := { armed := true, count := count.toNat, num := q, last := q, done := false, waits := waits }
    let s := updRegion s r (fun g => { g with sects := g.sects.put (c * 16 + k) x })
    let s := armSection s r c k count.toNat
    let s := (sectActors s r c k).foldl (fun s a => updTile s r a.1 (fun t => { t with fir := t.fir.map (fun f =>
      if f.ctx == c && f.actor == a.2 then { f with rearmed := true } else f) })) s
    if waits then s else retireCur s) s

/-- A phase opens (R227): the ring keeps 16 records. -/
def openPhase (s : State) (r ctx seq : Nat) : State :=
  updRegion s r (fun g =>
    let l := g.phases.getD ctx [] ++ [{ seq := seq, start := s.clock }]
    { g with phases := g.phases.put ctx (l.drop (l.length - 16)) })

/-- Whether the context is STARTED at a tile (R131). -/
def startedAtTile (s : State) (ctx r tile : Nat) : Bool :=
  match (getTile s r tile).ctxs.find? ctx with
  | some c => c.started
  | none => (getRegion s r).started.contains ctx

/-- STARTED at tiles of a region that have not started (R131): where the whole region starts, the region keeps the mark of its unloaded
tiles. -/
def markStarted (s : State) (ctx num r : Nat) (ts : List Nat) : State :=
  let whole := decide (256 ≤ ts.length)
  let s := if whole then updRegion s r (fun g => { g with started := ctx :: g.started.filter (· != ctx) }) else s
  ts.foldl (fun s tile => match (getTile s r tile).ctxs.find? ctx with
    | some c => if c.started then s
        else updTile s r tile (fun t => { t with ctxs := t.ctxs.put ctx { c with started := true, startNum := num, startAt := some s.clock } })
    | none => if whole then s
        else updTile s r tile (fun t => { t with ctxs := t.ctxs.put ctx { started := true, startNum := num, startAt := some s.clock } })) s

/-- The START token at the tiles of a list (R131, R150, R227): arbitration begins on the next clock. -/
def startTiles (s : State) (ctx num : Nat) (ts : List (Nat × Nat)) : State :=
  let fresh := ts.filter (fun x => !startedAtTile s ctx x.1 x.2)
  (fresh.map (·.1)).eraseDups.foldl (fun s r =>
    let idle := (getRegion s r).started.isEmpty && s.tiles.cells.all (fun k => k.1 / 256 != r || k.2.ctxs.vals.all (fun c => !c.started))
    let s := if idle then updRegion s r (fun g => { g with startClock := s.clock, tick := s.clock }) else s
    let s := match ((getRegion s r).phases.getD ctx []).getLast? with
      | some p => if p.stop.isNone then s else openPhase s r ctx 0
      | none => openPhase s r ctx 0
    let here := ts.filterMap (fun x => if x.1 == r then some x.2 else none)
    markStarted s ctx num r (if decide (256 ≤ here.length) then here else here.filter (fun k => !startedAtTile s ctx r k))) s

/-- START (R131, R304). -/
def execStart (ctx : BitVec 2) (rect : Word) (s : State) : Out' :=
  runStep (fun s => withRect s rect (fun ts s => retireCur (startTiles s ctx.toNat s.cur.num ts))) s

/-- Whether a tile still has the SWITCH of a tag before it. -/
def switchesLeft (s : State) (tag : Nat) : Bool :=
  s.tiles.vals.any (fun t => (match t.csw with | some c => c.2.2 == tag | none => false) || (match t.cswDue with | some c => c.2 == tag | none => false))

/-- A SWITCH retires when every target tile has switched (R304). -/
def retireSwitch (s : State) (tag : Nat) : State :=
  if switchesLeft s tag then s
  else retireNumber s (tag % 128) (tag / 128)

/-- SWITCH at one tile (R113). -/
def switchTile (s : State) (ctx tag : Nat) (t : Tile) : Tile :=
  if t.active == ctx then t
  else if t.gait.cur == 0 && t.gait.sw.isNone then { t with active := ctx }
  else startCtxSwitch s { t with cswDue := some (ctx, tag) }

/-- SWITCH (R113, R304): a tile that another SWITCH has not finished with makes it wait. -/
def execSwitch (ctx : BitVec 2) (rect : Word) (s : State) : Out' :=
  runStep (fun s => withRect s rect (fun ts s =>
    if ts.any (fun x => (getTile s x.1 x.2).csw.isSome || (getTile s x.1 x.2).cswDue.isSome) then unbegin s
    else
      let tag := s.cur.num * 128 + s.cur.reg.toNat
      retireSwitch (ts.foldl (fun s x => updTile s x.1 x.2 (switchTile s ctx.toNat tag)) s) tag)) s

/-- CONTEXT_SWITCH_COMPLETE (R113): the context is active; a gait request that arrived meanwhile follows. -/
def execContextSwitchComplete (r : RegionId) (tile : TileId) (s : State) : Out' :=
  runStep (fun s =>
    let t := getTile s r.toNat tile.toNat
    match t.csw with
    | some (ctx, fin, tag) =>
      if decide (fin ≤ s.clock) && t.fir.isNone then
        let s := setTile s r.toNat tile.toNat { t with active := ctx, csw := none }
        retireSwitch (retarget s r.toNat tile.toNat) tag
      else s
    | none => s) s

/-- BARRIER (R124, R227, R304): it ends the open phases and opens the next. -/
def execBarrier (s : State) : Out' :=
  runStep (fun s =>
    let r := s.cur.reg.toNat
    let s := (List.range 4).foldl (fun s x => openPhase (updPhase s r x (fun p => { p with stop := some s.clock })) r x s.cur.num) s
    retireCur s) s

/-! ### ACCRST, MARK, SHED, COUPLE (R306–R309) -/

/-- ACCRST (R306). -/
def execAccrst (all : Bool) (br : BitVec 2) (chid : Chid) (s : State) : Out' :=
  runStep (fun s =>
    withBranch s chid (if all then 0 else br.toNat) (fun c _ s =>
      let bs := if all then List.range c.branches.length else [br.toNat]
      retireCur (bs.foldl (fun s b => updState (clearSticky s chid.toNat b) chid.toNat b (fun t => { t with cumw := 0 })) s))) s

/-- MARK (R307). -/
def execMark (p : BitVec 5) (ty : BitVec 4) (scope : BitVec 3) (val : Word) (s : State) : Out' :=
  runStep (fun s =>
    let r := s.cur.reg.toNat
    let z := if ty == 2 then val.toNat else if ty == 4 then val.toNat / 65536 * 65536 else 0
    mustBeZero s z 0 (fun s =>
      match outPort s r p.toNat with
      | none => cmdFail s 18 0
      | some ch =>
        let extra := if ty == 4 then scope.toNat * 16 + bitsN val 0 16 * 2 ^ 16 else if ty == 6 then val.toNat * 2 ^ 64 else 0
        let s := emitRecord s ch [markTok ty.toNat extra]
        retireCur (if ty == 2 then updPort s r p.toNat (fun x => { x with eos := true }) else s))) s

/-- A SHED that has passed its checks (R143, R308): one that leaves SPILL takes effect, its clearing included, once the ring has drained. -/
def installShed (s : State) (chid : Chid) (br : Nat) (clr : Bool) (new : BitVec 256) (b : Branch) : State :=
  let leaves := Br.pol b.word == 1 && Br.pol new != 1 && b.st.spocc != 0
  let s := if b.shedTag == 0 then s else retireNumber s (b.shedTag % 128) (b.shedTag / 128)
  let s := updBranch s chid.toNat br (fun b => { b with lastNum := s.cur.num })
  if leaves then updBranch s chid.toNat br (fun b => { b with shed := some new, shedTag := s.cur.num * 128 + s.cur.reg.toNat, shedClr := clr })
  else retireCur (putShed s chid.toNat br clr new)

/-- Check the new fields of a SHED (R134, R308). -/
def tryShed (s : State) (chid : Chid) (br : Nat) (clr : Bool) (new : BitVec 256) (b : Branch) : State :=
  if branchOk (applyShed b.word new) then installShed s chid br clr new b else cmdFail s 13 chid.toNat

/-- A SHED or COUPLE takes effect at a clock boundary: after an event of its branch it waits for the next clock (R143). -/
def atBoundary (s : State) (b : Branch) (f : State → State) : State := if b.mayAct s.clock 0 then f s else unbegin s

/-- SHED (R308). -/
def execShed (clr ind : Bool) (br : BitVec 2) (chid : Chid) (sh : Word) (s : State) : Out' :=
  runStep (fun s =>
    mustBeZero s (if ind then bitsN sh 0 5 else bitsN sh 31 33 * 2 ^ 31) 0 (fun s =>
      withBranch s chid br.toNat (fun _ b s => atBoundary s b (fun s =>
        if ind then withDesc s sh 32 (fun bs s => tryShed s chid br.toNat clr (BitVec.ofNat 256 (ofBytes bs)) b)
        else tryShed s chid br.toNat clr (setBits b.word 188 31 (bitsN sh 0 31)) b)))) s

/-- The Reins fields that a COUPLE gives (R309). -/
def coupleWord (w : BitVec 256) (body : Word) : BitVec 256 :=
  setBits (setBits (setBits (setBits w 145 16 (bitsN body 25 16)) 161 16 (bitsN body 9 16)) 177 8 (bitsN body 1 8)) 185 1 (bitsN body 0 1)

/-- The coupled branches of a team's live channels (R152). -/
def teamCoupled (s : State) (team : Nat) : List Coupled :=
  s.chans.cells.flatMap (fun k => if !k.2.live || k.2.team != team then [] else
    (k.2.indexed.filter (fun b => Br.cen b.2.word && k.2.prod != 3 && b.2.kind != 3)).map (fun b =>
      let x := consTile s k.2 b.2
      let cons := if b.2.kind != 0 then none else
        (consActor s x.1 x.2 (Br.cep b.2.word)).map (fun a => (Br.ctx b.2.word, Br.cty b.2.word, a.1 * 4 + a.2))
      let prod := if k.2.prod == 0 then some (Head.ptx k.2.head, Head.pty k.2.head, k.2.ctx * 4 + Head.pact k.2.head) else none
      { kp := Br.kp b.2.word, ki := Br.ki b.2.word, prod := prod, cons := cons, det := (0, k.1) }))

/-- COUPLE (R152, R309). -/
def execCouple (br : BitVec 2) (chid : Chid) (body : BitVec 41) (s : State) : Out' :=
  runStep (fun s =>
    withBranch s chid br.toNat (fun c b s => atBoundary s b (fun s =>
      let w := coupleWord b.word (body.setWidth 64)
      if !branchOk w then cmdFail s 13 chid.toNat
      else
        let s' := updBranch s chid.toNat br.toNat (fun b =>
          { b with word := w, lastNum := s.cur.num, st := { b.st with integ := if Br.cen w && !Br.cen b.word then 0 else b.st.integ } })
        if (reinsBad (teamCoupled s' c.team)).isSome then cmdFail s 8 chid.toNat
        else retireCur (countShed s' c b)))) s

/-! ### TMPL, REDTREE, WATCHSET (R310, R311, R315) -/

/-- The first word of a template that R167 refuses. -/
def tmplBad (ws : List Word) : Option Nat :=
  let w (k : Nat) : Word := ws.getD k 0
  let cnts (k : Nat) : List Nat := (List.range 4).map (fun l => bitsN (w k) (16 * l) 16)
  let prod (k : Nat) : Nat := (cnts k).foldl (· * ·) 1
  let pair := match Ty.ofCode (bitsN (w 10) 0 4), Ty.ofCode (bitsN (w 10) 4 4) with
    | some a, some b => a == b || (b.isFloat && (a.isFloat || a.isInt))
    | _, _ => false
  if (cnts 2).any (· == 0) then some 2
  else if (cnts 3).any (· == 0) || prod 2 != prod 3 then some 3
  else if bitsN (w 5) 32 32 != 0 then some 5
  else if bitsN (w 7) 32 32 != 0 then some 7
  else if bitsN (w 10) 18 46 != 0 || !pair || (bit (w 10) 12 && bit (w 10) 13) || decide (4 < bitsN (w 10) 8 3) || decide (4 < bitsN (w 10) 15 3) then some 10
  else (List.range 5).findSome? (fun k => if w (11 + k) != 0 then some (11 + k) else none)

/-- TMPL (R167, R310). -/
def execTmpl (tidx : BitVec 10) (taddr : Word) (s : State) : Out' :=
  runStep (fun s =>
    mustBeZero s (bitsN taddr 0 6) 0 (fun s =>
      withDesc s taddr 128 (fun bs s =>
        let ws := bytesWords bs 16
        match tmplBad ws with
        | some k => cmdFail s 20 k
        | none => retireCur (updTeam s (myTeam s).id (fun t => { t with tmpl := t.tmpl.put tidx.toNat ws }))))) s

/-- One entry of a tree table (R311). -/
def treeEntry (w0 w1 : Word) : Node :=
  let k := bitsN w0 20 3 + 1
  { reg := bits w0 0 7
    parent := if bit w0 15 then none else some (bits w0 8 7)
    rstr := bits w0 16 2
    kids := (List.range k).map (fun c => if bit w1 (8 * c + 7) then .self (bits w1 (8 * c) 2) else .node (bits w1 (8 * c) 7)) }

/-- Bad bits of one entry: its offset within the entry. -/
def treeEntryBad (w0 w1 : Word) : Option Nat :=
  let n := treeEntry w0 w1
  let z := bitsN w0 7 1 * 2 ^ 7 + bitsN w0 18 2 * 2 ^ 18 + bitsN w0 23 41 * 2 ^ 23
  match (List.range 8).find? (fun k => z / 2 ^ (8 * k) % 256 != 0) with
  | some k => some k
  | none => ((List.range 8).find? (fun c =>
      if n.kids.length ≤ c then bitsN w1 (8 * c) 8 != 0
      else bit w1 (8 * c + 7) && (bitsN w1 (8 * c + 2) 5 != 0 || (n.kids.take c).contains (n.kids.getD c (.node 0))))).map (8 + ·)

/-- The byte offset of the first bad field of a table (R311). -/
def treeBad (es : List (Word × Word)) : Option Nat :=
  let ns := es.map (fun e => treeEntry e.1 e.2)
  let ix := List.range ns.length
  let nd (k : Nat) : Node := ns.getD k {}
  let isKid (p : Node) (r : RegionId) : Bool := p.kids.contains (.node r)
  let up (k : Nat) : Nat := match (nd k).parent with | some p => (ns.findIdx? (fun n => n.reg == p)).getD k | none => k
  let rec climb (fuel k : Nat) : Nat := match fuel with | 0 => k | f + 1 => climb f (up k)
  match ix.findSome? (fun k => (treeEntryBad (es.getD k (0, 0)).1 (es.getD k (0, 0)).2).map (16 * k + ·)) with
  | some d => some d
  | none => match ix.find? (fun k => (ns.take k).any (fun n => n.reg == (nd k).reg)) with
    | some k => some (16 * k)
    | none => match ix.find? (fun k => (nd k).parent.isNone && (ns.take k).any (fun n => n.parent.isNone)) with
      | some k => some (16 * k + 1)
      | none =>
        if ns.all (fun n => n.parent.isSome) then some 1
        else match ix.find? (fun k => match (nd k).parent with
          | some p => !(ns.all (fun n => isKid n (nd k).reg == (n.reg == p))) || !(ns.any (fun n => n.reg == p))
          | none => false) with
        | some k => some (16 * k + 1)
        | none => match ix.find? (fun k => (nd (climb ns.length k)).parent.isSome) with
          | some k => some (16 * k + 1)
          | none => ix.findSome? (fun k => ((List.range (nd k).kids.length).find? (fun c => match (nd k).kids.getD c (.self 0) with
              | .node r => !(ns.any (fun n => n.reg == r))
              | .self _ => false)).map (fun c => 16 * k + 8 + c))

/-- Pairs of words of a table. -/
def tablePairs (bs : List Byte) (n : Nat) : List (Word × Word) :=
  (List.range n).map (fun k => (BitVec.ofNat 64 (ofBytes ((bs.drop (16 * k)).take 8)), BitVec.ofNat 64 (ofBytes ((bs.drop (16 * k + 8)).take 8))))

/-- REDTREE (R29, R311). -/
def execRedtree (nent : BitVec 7) (tout : BitVec 12) (len : BitVec 2) (tree : BitVec 6) (table : Word) (s : State) : Out' :=
  runStep (fun s =>
    let n := nent.toNat + 1
    let t := myTeam s
    mustBeZero s (bitsN table 0 4) 0 (fun s =>
      withDesc s table (16 * n) (fun bs s =>
        let es := tablePairs bs n
        let ns := es.map (fun e => treeEntry e.1 e.2)
        match treeBad es with
        | some d => cmdFail s 17 d
        | none =>
          let old := s.trees.find? tree.toNat
          if ns.any (fun k => !t.holds k.reg.toNat) || (match old with | some o => o.team != t.id | none => false) then cmdFail s 18 0
          else if (match old with | some o => o.nodes.any (fun k => !k.held.isEmpty) | none => false) then cmdFail s 19 0
          else
            let s := { s with strands := s.strands.mapVals (fun i st =>
              if t.holds (i / 4) then { st with epochs := st.epochs.erase tree.toNat } else st) }
            retireCur (setTree s tree.toNat { team := t.id, len := len.toNat + 1, tout := tout.toNat, nodes := ns })))) s

/-- WATCHSET (R164, R315). -/
def execWatchset (fidx : BitVec 5) (die : DieId) (faddr : Word) (s : State) : Out' :=
  runStep (fun s =>
    mustBeZero s (bitsN faddr 0 4) 0 (fun s =>
      withDesc s faddr 16 (fun bs s =>
        let f : BitVec 128 := setBits (BitVec.ofNat 128 (ofBytes bs)) 0 6 0
        retireCur { s with trans := { s.trans with watch := s.trans.watch.put (die.toNat * 32 + fidx.toNat) f } }))) s

/-! ### RESUME (R313) -/

/-- The served entry of a unit leaves the fault queue: word 1's SRC, ATAG, REG, TILE and UNIT name it. -/
def serveFault (s : State) (unit : Word) (id : Option Nat) : State :=
  (takeFault s (regionDie (bitsN unit 32 7)) (fun e =>
    bitsN e.w1 53 3 == bitsN unit 53 3 && bitsN e.w1 16 16 == bitsN unit 16 16 && bitsN e.w1 32 19 == bitsN unit 32 19
      && (match id with | some k => e.w3.toNat == k | none => true))).2

/-- SKIP of a SPARSE_META park: the firing's inputs are consumed, and it counts towards its section. -/
def skipFiring (s : State) (r tile ctx a : Nat) : State :=
  let x := ((getTile s r tile).ctxs.getD ctx {}).actor a
  match todoOf s r tile x with
  | .fire mark fill =>
    let f : Fir := { r := r, tile := tile, act := x, mark := mark, fill := fill, heads := (List.range 8).map (headOf s r tile x.hdr mark fill) }
    let tok := mark.bind (fun n => (f.head n).head?)
    let moved := if mark.isSome || Hdr.join x.hdr == 0 then 0 else recordsIn s r tile f.side (f.head f.side).length
    let s := consume f s
    let s := if moved == 0 then s else moveJoin s r tile ctx a moved
    let s := match tok with | some t => markEffect s r tile ctx t | none => s
    countFiring s r tile ctx a mark.isNone false
  | _ => s

/-- RESUME for an actor. -/
def resumeActor (s : State) (act : Nat) (unit : Word) : State :=
  let r := bitsN unit 32 7
  let tile := bitsN unit 24 8
  let ctx := bitsN unit 22 2
  let a := bitsN unit 20 2
  match ((getTile s r tile).ctxs.getD ctx {}).actors.find? a with
  | none => retireCur s
  | some x =>
    let free (s : State) : State := updActor s r tile ctx a (fun y => { y with park := none, trapped := none, owed := false })
    match x.park, x.trapped with
    | none, none => retireCur s
    | _, _ =>
      let s' := if x.park.isSome then serveFault s unit none else s
      if act == 0 then retireCur (free s')
      else if act == 2 then
        let sec := Hdr.sec x.hdr
        let st := getSect s' r ctx sec
        retireCur (if st.armed && !st.done then sectionDone (free s') r ctx sec true else free s')
      else match x.trapped with
        | none => cmdFail s 19 0
        | some c =>
          if c.code == 0x11 then retireCur (updActor (free s') r tile ctx a (fun y => { y with skip := true }))
          else retireCur (skipFiring (free s') r tile ctx a)

/-- RESUME (R163, R313): releases a parked unit. -/
def resumeUnit (s : State) (act : Nat) (id : Nat) (unit : Word) : State :=
  let t := myTeam s
  let src := bitsN unit 53 3
  let r := bitsN unit 32 7
  let u := bitsN unit 16 8
  if bitsN unit 39 12 != t.atag || !t.holds r || src == 0 || decide (4 < src) then cmdFail s 18 0
  else if src == 1 then resumeActor s act unit
  else if act != 0 then cmdFail s 19 0
  else if src == 2 then
    let k := (getRegion s r).carters.getD (u % 8) {}
    match k.cur with
    | some c => if c.park.isNone then retireCur s else
        retireCur (updRegion (serveFault s unit none) r (fun g => { g with carters := g.carters.put (u % 8) { k with cur := some { c with park := none } } }))
    | none => retireCur s
  else if src == 3 then
    if (getPort s r (u % 32)).park.isNone then retireCur s else retireCur (updPort (serveFault s unit none) r (u % 32) (fun x => { x with park := none }))
  else match s.chans.find? (id % 65536) with
    | some c =>
      if c.team != t.id then cmdFail s 18 0
      else match c.branches[u % 4]? with
        | some b => if b.park.isNone then retireCur s else
            retireCur (recount (updBranch (serveFault s unit (some (id % 65536))) (id % 65536) (u % 4) (fun b => { b with park := none })) (id % 65536) (u % 4))
        | none => retireCur s
    | none => cmdFail s 18 0

/-- RESUME (R313, R314). -/
def execResume (act : BitVec 2) (id : Word32) (unit : Word) (s : State) : Out' :=
  runStep (fun s => resumeUnit s act.toNat id.toNat unit) s

end Sys2Proof.Machine
end

