-- ==== Sys2Proof/Machine/Launch.lean ====
section
/-! DEFINITION. Launches (R45, R46, R59, R60, R66): the packet, the checks on acceptance, the queues the Ostler holds, landing rings in
LAUNCH mode, the LAUNCH instruction (R284), dependences, and the images' fetch (R44). -/

namespace Sys2Proof.Machine

/-- Word k of a launch packet (R45). -/
def pktWord (p : Line) (k : Nat) : Word := bits p (64 * k) 64

namespace Lp
def cfgid (p : Line) : Word32 := bits p 32 32
def w (p : Line) : Nat := bitsN p 29 3
def h (p : Line) : Nat := bitsN p 27 2
def prio (p : Line) : Nat := bitsN p 24 3
def ndep (p : Line) : Nat := bitsN p 21 3
def hv (p : Line) : Bool := bit p 20
def hitch (p : Line) : Nat := bitsN p 0 16
end Lp

/-- What the checks of R46 find: the reason, 0 when accepted; the CONFIG_INVALID record; the counters' homes; the image. -/
structure Verdict where
  reason : Nat := 0
  record : Word := 0
  deps : List (Nat × Word) := []
  image : Image := {}
  deriving DecidableEq, Repr

/-- Bytes of a space as the Ostler reads them; none when they cannot be read. -/
def ostlerRead (s : State) (c : Space) (va : Word) (n : Nat) : Option (List Byte) :=
  match engineXl s c va n .read with
  | .ok ps => if piecesBad s ps then none else some (readPieces s ps)
  | .error _ => none

/-- The dependence pairs (R46): home keys of the counters, and targets. -/
def depPairs (s : State) (c : Space) (va : Word) (n : Nat) : Option (List (Nat × Word)) :=
  match ostlerRead s c va (16 * n) with
  | none => none
  | some bs => (tablePairs bs n).mapM (fun q =>
      if q.1.toNat % 8 != 0 then none
      else match translateNow s c q.1 .read with
        | .ok key _ => if poisoned s key 8 then none else some (key, q.2)
        | _ => none)

/-- An entry of a Groom memory image (R47). -/
structure GEntry where
  rx : Nat := 0
  ry : Nat := 0
  strand : Nat := 0
  run : Bool := false
  pc : Word := 0
  regs : List Word := []
  deriving DecidableEq, Repr

/-- A memory image: DPC and its entries; none when it cannot be read or is malformed (R47). -/
def readMimg (s : State) (c : Space) (va : Word) (w h : Nat) : Option (Word × List GEntry) :=
  match ostlerRead s c va 64 with
  | none => none
  | some hd =>
    let hw := bytesWords hd 8
    let n := bitsN (hw.getD 0 0) 0 16
    if bitsN (hw.getD 0 0) 16 48 != 0 || (hw.drop 2).any (· != 0) then none
    else match ostlerRead s c (va + 64) (256 * n) with
      | none => none
      | some bs =>
        let es := (List.range n).map (fun k =>
          let ws := bytesWords ((bs.drop (256 * k)).take 256) 32
          let v := ws.getD 0 0
          (v, ({ rx := bitsN v 0 8, ry := bitsN v 8 8, strand := bitsN v 16 2, run := bit v 18, pc := ws.getD 1 0, regs := ws.drop 2 } : GEntry)))
        if es.any (fun e => bitsN e.1 19 45 != 0 || decide (w ≤ e.2.rx) || decide (h ≤ e.2.ry)) then none
        else some (hw.getD 1 0, es.map (·.2))

/-- The loader's checks of an image's bytes for a team that holds nothing yet (R46, R128). -/
def bytesRecord (s : State) (w h : Nat) (bs : List Byte) : Option Word :=
  match readImage bs with
  | .error d => some (checkRecord 0 15 0 0 d)
  | .ok m =>
    let t : Team := { w := w, h := h }
    checkImage { s with tiles := {}, chans := {}, regions := {} } t 0 none m

/-- The loader's checks of a registered image as it stands in HBM. -/
def imageRecord (s : State) (w h : Nat) (i : Image) : Option Word := bytesRecord s w h (imageBytes s i)

/-- The checks of R46 in the order of their reasons; `sv`: an SVLAUNCH, which has no quota (R372). -/
def checkLaunch (s : State) (p : Line) (c : Space) (sv : Bool) : Verdict :=
  let q := pktWord p 4
  if decide (4 < Lp.w p) || decide (4 < Lp.ndep p) || bitsN p 16 4 != 0 || decide (2 ^ 61 ≤ q.toNat) || pktWord p 7 != 0 || (sv && q != 0) then { reason := 1 }
  else match s.ost.images.find? (Lp.cfgid p).toNat with
    | none => { reason := 2 }
    | some i =>
      let w := 2 ^ Lp.w p
      let h := 2 ^ Lp.h p
      match imageRecord s w h i with
      | some r => { reason := 3, record := r }
      | none => match depPairs s c (pktWord p 3) (Lp.ndep p) with
        | none => { reason := 4 }
        | some deps => match readMimg s c (pktWord p 1) w h with
          | none => { reason := 5 }
          | some _ => { deps := deps, image := i }

/-- What a read of the Ostler does to the TLBs, and the bytes it moves (R156, R160). -/
def ostlerTouch (s : State) (c : Space) (va : Word) (n : Nat) : State :=
  let s := enginePrep s c va n .read
  match engineXl s c va n .read with
  | .ok ps => accountPieces s ps
  | .error _ => s

/-- The reads that the checks of a launch made, up to the one that refused it: the dependence pairs and counters, the memory image. -/
def launchTouch (s : State) (p : Line) (c : Space) (v : Verdict) : State :=
  let n := Lp.ndep p
  if decide (1 ≤ v.reason) && decide (v.reason ≤ 3) then s
  else
    let s := ostlerTouch s c (pktWord p 3) (16 * n)
    let s := match ostlerRead s c (pktWord p 3) (16 * n) with
      | some bs => (tablePairs bs n).foldl (fun s q => if q.1.toNat % 8 != 0 then s else walkNow s c q.1 .read) s
      | none => s
    if v.reason == 4 then s
    else
      let m := pktWord p 1
      let s := ostlerTouch s c m 64
      match ostlerRead s c m 64 with
      | some hd => ostlerTouch s c (m + 64) (256 * bitsN (BitVec.ofNat 64 (ofBytes (hd.take 8))) 0 16)
      | none => s

/-- Teams in DEPWAIT or QUEUED (R59). -/
def heldLaunches (s : State) : Nat := (s.teams.vals.filter (fun t => t.state == .depwait || t.state == .queued)).length
/-- Launches wait unread while 4096 are held (R59), and for ever once the module is RETIRED (R56). -/
def launchRoom (s : State) : Bool := decide (heldLaunches s < 4096) && s.sec.lcs != .retired

/-- A packet that has passed its checks becomes a team in DEPWAIT, or in QUEUED when it names no dependence (R46, R59, R60). -/
def enrol (s : State) (p : Line) (c : Space) (queue prio : Nat) (sv : Bool) (v : Verdict) : Nat × State :=
  let id := s.ost.nextTeam
  let q := pktWord p 4
  let t : Team := { id := id, state := if v.deps.isEmpty then .queued else .depwait, w := 2 ^ Lp.w p, h := 2 ^ Lp.h p
                    cfgid := Lp.cfgid p, mimg := pktWord p 1, cdone := pktWord p 2, deps := v.deps, arg0 := pktWord p 5, arg1 := pktWord p 6
                    prio := prio, svm := sv, since := s.clock, port := queue, image := v.image, source := c, packet := p
                    energy := if q = 0 then {} else setRemain {} true q.toNat
                    hitch := if Lp.hv p then some (Lp.hitch p) else none }
  let s := setTeam s id t
  (id, { s with ost := { s.ost with nextTeam := id + 1, queues := s.ost.queues.put queue (s.ost.queues.getD queue [] ++ [id]) } })

/-- The queue of an ingress port: die·2050 + port. -/
def portQueue (p : Nat) : Nat := p / 2048 * 2050 + p % 2048

/-- A refused launch of a port (R46): the last-refusal word, and the record for the refusal log. -/
def refusePort (s : State) (p : Nat) (v : Verdict) : State :=
  let ip := getIPort s p
  let s := setIPort s p { ip with refReason := v.reason, refCount := min (ip.refCount + 1) (2 ^ 32 - 1) }
  if v.reason == 3 then portEvent s "REFUSAL" [BitVec.ofNat 64 p, v.record] else s

/-- Take the oldest entry of a ring that the Ostler or the loader consumes: payload and sideband (R41). -/
def ringTake (s : State) (p : Nat) : Option (Line × BitVec 24 × State) :=
  let ip := getIPort s p
  let d := ip.live
  match portSpace s d, occOf s d with
  | some c, some occ =>
    if occ = 0 then none
    else match slotKeys s c d (ip.entry - occ) .read, counterKeys s c d .write with
      | some k, some q =>
        let pay : Line := BitVec.ofNat 512 (ofBytes (readBytes s k.1 64))
        let side : BitVec 24 := (readWord s k.2).setWidth 24
        some (pay, side, writeWord (ringTaken s c d (ip.entry - occ)) q.2 (readWord s q.2 + 1))
      | _, _ => none
  | _, _ => none

/-- A launch packet of a port: refused, or admitted with PRIO clamped to PMAX (R45, R46). Answers the team. -/
def launchFrom (s : State) (p : Nat) (c : Space) (pay : Line) : Option Nat × State :=
  let v := checkLaunch s pay c false
  let s := launchTouch s pay c v
  if v.reason != 0 then (none, refusePort s p v)
  else
    let x := enrol s pay c (portQueue p) (min (Lp.prio pay) (Pd.pmax (getIPort s p).live)) false v
    (some x.1, x.2)

/-- The head of a queue: launches that were killed are gone (R60). -/
def headOfQueue (s : State) (q : Nat) : Option Team :=
  ((s.ost.queues.getD q []).map (getTeam s)).find? (fun t => t.state == .depwait || t.state == .queued)

/-- The Ostler reads the ring of a port in LAUNCH mode up to its next head (R42, R49, R59, R60): the ring is the queue, gap entries are
skipped, a refused launch leaves at once. A port that became DISABLED finishes what it accepted (R40). -/
def drainLaunches (s : State) (p : Nat) : Nat → State
  | 0 => s
  | n + 1 =>
    let ip := getIPort s p
    if Pd.mode ip.live != 2 || !launchRoom s || !s.sec.ready || (headOfQueue s (portQueue p)).isSome then s
    else match portSpace s ip.live, ringTake s p with
      | some c, some x => drainLaunches (if Sb.isMark x.2.1 then x.2.2 else (launchFrom x.2.2 p c x.1).2) p n
      | _, _ => s

def drainPort (s : State) (p : Nat) : State := drainLaunches s p (Pd.slots (getIPort s p).live)

/-- The next head of a queue, when it is a port's ring. -/
def readHead (s : State) (q : Nat) : State := if q % 2050 < 2048 then drainPort s (q / 2050 * 2048 + q % 2050) else s

/-- Every port in LAUNCH mode whose ring holds launches. -/
def drainAll (s : State) : State := (s.host.ports.cells.map (·.1)).foldl drainPort s

/-- LAUNCH (R60, R178, R284). -/
def execLaunch (d a : Reg) (s : State) : Out' :=
  runStep (fun s =>
    let va := opA s a
    if va.toNat % 64 != 0 then trapMisalign s va
    else
      let s := release s (me s) 3
      withBlocks s va [] (fun bs s =>
        let pay : Line := BitVec.ofNat 512 (ofBytes bs)
        let c := strandSpace s (me s)
        let queue := regionDie s.cur.reg.toNat * 2050 + 2048
        if decide (64 ≤ (s.ost.queues.getD queue []).length) || !launchRoom s then result s d (refusal 6)
        else
          let v := checkLaunch s pay c false
          let s := launchTouch s pay c v
          if v.reason != 0 then
            result (if v.reason == 3 then emit s (.event "REFUSAL" [BitVec.ofNat 64 (2 ^ 32 + gidOf s (me s)), v.record]) else s) d (refusal v.reason)
          else
            let n := takeNumber (enrol s pay c queue (Lp.prio pay) false v).2
            let s := retireNumber n.2 s.cur.reg.toNat n.1
            advance (setG s d (BitVec.ofNat 64 n.1)) n.1) 1) s

/-- SVLAUNCH (R372): the mailbox answers BUSY, a reason of R46, or accepts. -/
def execSvlaunch (packet : Line) (s : State) : Out' :=
  runStep (fun s =>
    let c : Space := { svm := true }
    if !s.sec.ready || s.sec.lcs == .retired then refuse s "SVLAUNCH" "RESERVED"
    else if decide (64 ≤ (s.ost.queues.getD 2049 []).length) || !launchRoom s then refuse s "SVLAUNCH" "BUSY"
    else
      let v := checkLaunch s packet c true
      let s := launchTouch s packet c v
      match v.reason with
      | 0 => reply (enrol s packet c 2049 (Lp.prio packet) true v).2 "SVLAUNCH" [BitVec.ofNat 64 s.ost.nextTeam]
      | 1 => refuse s "SVLAUNCH" "RESERVED"
      | 2 => refuse s "SVLAUNCH" "NOIMG"
      | 3 => refuse (emit s (.event "REFUSAL" [BitVec.ofNat 64 (2 ^ 33), v.record])) "SVLAUNCH" "INVALID"
      | 4 => refuse s "SVLAUNCH" "DEPFAULT"
      | _ => refuse s "SVLAUNCH" "MIMGFAULT") s

/-- DEPENDENCE_CHECK (R46, R59, R66): every counter is at its target, now or at a write before: the launch is QUEUED and its waiting
starts. -/
def execDependenceCheck (team : TeamId) (s : State) : Out' :=
  runStep (fun s =>
    let t := getTeam s team.toNat
    if t.state == .depwait && (t.depsMet || depsNow s t) then
      updTeam s t.id (fun t => { t with state := .queued, since := s.clock })
    else s) s

/-- IMAGE_FETCH (R44): a die's loader fetches an image that a loading team of the die needs, else the registered one. -/
def execImageFetch (die : DieId) (id : Word32) (s : State) : Out' :=
  runStep (fun s =>
    let wants := s.teams.vals.filterMap (fun t =>
      if t.state == .loading && t.cfgid == id && t.regions.any (fun r => regionDie r == die.toNat) then some t.image else none)
    let is := if wants.isEmpty then (s.ost.images.find? id.toNat).toList else wants
    is.foldl (fun s i => match cacheFetch s die.toNat i imageReads with | some x => x.2 | none => s) s) s

end Sys2Proof.Machine
end

