-- ==== Sys2Proof/Machine/Fabric.lean ====
section
/-! DEFINITION. The fabric: packets (R18), ENQ (R22, R282), landing by class (R20, R24–R28), forwarding (R16, R17), acknowledgements
(R20, R28), links and their registers (R13–R15). -/

namespace Sys2Proof.Machine

/-- The fabric error log (R16). -/
def errLog (s : State) : State := updFab s (fun f => { f with errlog := sat64 (f.errlog + 1) })

/-- Die that a packet of this module was made on. -/
def Packet.die (p : Packet) : Nat := regionDie (Hp.src p / 4)

/-- A C0 packet leaves its die's egress queue (R22). -/
def leaveDie (s : State) (p : Packet) : State :=
  if Hp.cls p != 0 || p.left || Hp.smod p != modN s then s
  else updFab s (fun f => { f with c0q := f.c0q.put p.die (f.c0q.getD p.die 0 - 1) })

/-! ### Acknowledgements (R20) -/

/-- The k-th line of a copy is acknowledged; a refused one is kept apart (R158, R168). -/
def Copy.acked (x : Copy) (k : Nat) (refused : Bool) : Copy :=
  { x with flying := x.flying.eraseIdx k, refused := x.refused ++ (if refused then (x.flying[k]?).toList else []) }

/-- A line of a Carter channel of a region is acknowledged: the k-th that is not yet. A discarded line of C4 counts as lost (R168, R169), a
refused one of C1 is a fault of its copy (R158). -/
def ackCarter (s : State) (r ch k cls lost : Nat) : State :=
  updRegion s r (fun g =>
    let c := g.carters.getD ch {}
    let n := c.old.length
    let c := { c with lost := if cls == 4 then sat64 (c.lost + lost) else c.lost }
    let c := if k < n then { c with old := c.old.eraseIdx k } else { c with cur := c.cur.map (fun x => x.acked (k - n) (cls == 1 && decide (0 < lost))) }
    { g with carters := g.carters.put ch c })

/-- The context that a tag bills: the latest that has been given it and has not come to its end (R28). -/
def tagTeam (s : State) (tag : Nat) : Option Team :=
  if tag = 0 || !s.ost.usedTags.contains tag then none
  else (s.teams.vals.filter (fun t => t.atag == tag && t.state != .retired && t.state != .depwait && t.state != .queued)).foldl
    (fun b t => match b with | some x => if x.id < t.id then some t else b | none => some t) none

/-- The completion add of a copy is performed at its home on another module, and the copy ends; a refused one is a fault of the copy (R25,
R158, R169). `k`: its place among the channels of the region whose add is on its way. -/
def ackAdd (s : State) (r k : Nat) (denied : Bool) : State :=
  let cs := (getRegion s r).carters.cells.filter (fun c => match c.2.cur with | some x => x.adding | none => false)
  match cs[k]? with
  | none => s
  | some (ch, c) =>
    match c.cur with
    | none => s
    | some x =>
      let put (s : State) (x : Option Copy) : State := updRegion s r (fun g => { g with carters := g.carters.put ch { c with cur := x } })
      if denied then put s (some { x with adding := false, denied := true })
      else
        let t := (teamOf s r).getD {}
        let s := match translateNow s (t.spaceAt t.svm r) (x.tmpl.getD 8 0) .atomic with
          | .ok key _ => writeWord s key (readWord s key + x.tmpl.getD 9 0)
          | _ => s
        retireNumber (put s none) r x.start.num

/-- The k-th request or store that a strand has sent over C3 and that has no response: its request may finish (R157), its store is
performed now (R174). One that its home has refused ends in PROTECTION; a refused store, whose instruction is over, raises it async, with
the address in the slice window, the only place that is refused (R158; log 21). Behind them stand the completion adds of the region's
Carters. -/
def ackC3 (s : State) (i k : Nat) (denied : Bool) : State :=
  let st := getStrand s i
  let waiting := st.sent.filter (fun q => !q.answered)
  match waiting[k]? with
  | some q =>
    let n := (st.sent.findIdx? (fun x => x == q)).getD 0
    setStrand s i { st with sent := if q.gone then st.sent.eraseIdx n else st.sent.set n { q with answered := true, denied := denied } }
  | none =>
    let j := k - waiting.length
    match (st.view.stores.filter (·.sent))[j]? with
    | some p =>
      let n := (st.view.stores.findIdx? (fun x => x == p)).getD 0
      let s := setStrand s i { st with view := { st.view with stores := st.view.stores.eraseIdx n } }
      if denied then
        let base := ((teamOf s (i / 4)).getD {}).slicebase
        (pendAsync s i { code := 0x05, tval := base + BitVec.ofNat 64 (p.key / 2 ^ 48 * 2 ^ 32 + (p.key % 2 ^ 48 - 2 ^ 47)) }).2
      else writeBytes s p.key p.bytes
    | none => ackAdd s (i / 4) (j - (st.view.stores.filter (·.sent)).length) denied

/-- The channel whose egress sent a packet that is discarded on this module (R142; log 52). -/
def egressChan (s : State) (p : Packet) : Nat :=
  ((s.chans.cells.find? (fun c => (c.2.branches.zipIdx).any (fun b => b.1.remote && decide (0 < b.1.sent) &&
    (let g := Config.egressTo c.1 b.2; g.1.toNat == Hp.dmod p && g.2.1.toNat == Hp.ddie p && g.2.2.1.toNat == Hp.tgt p)))).map (·.1)).getD 0

/-- A packet of a channel is acknowledged at its egress (R142). -/
def ackChannel (s : State) (ch : Nat) : State :=
  match s.chans.find? ch with
  | some c =>
    let n := (c.branches.findIdx? (fun b => b.remote && decide (0 < b.sent))).getD 0
    setChan s ch { c with branches := c.branches.modify n (fun b => { b with sent := b.sent - 1 }) }
  | none => s

/-- An acknowledgement reaches the source (R20, R28): the tokens are billed to the tag, the in-flight count falls. `what` names the
request: of C1 and C4 copies the channel in [2:0] and the line's place among those not acknowledged above it; of C3 the place among
the strand's requests and stores; of a channel packet, for which `copy` is false, its channel. -/
def ackLocal (s : State) (tag cls src tokens : Nat) (copy : Bool) (what lost : Nat) : State :=
  let t := match tagTeam s tag with | some t => some t | none => teamOf s (src / 4)
  let s := match t with
    | some t => chargeTeam s t.id tokens
    | none => s
  if cls == 0 then updStrand s src (fun st => { st with c0 := st.c0 - 1 })
  else
    let s := match t with | some t => updTeam s t.id (fun t => { t with flying := t.flying - 1 }) | none => s
    if cls == 3 then ackC3 s src what (decide (0 < lost))
    else if copy then ackCarter s (src / 4) (what % 8) (what / 8) cls lost
    else ackChannel s what

/-- Acknowledge a packet to its source, with the tokens spent here for its tag. A packet of this module that ends here is answered by
its own egress: a copy's line by its channel and its place among those that fly (R168); a request of a strand, the oldest. -/
def ackPacket (s : State) (p : Packet) (tokens lost : Nat) : State :=
  let copy := Hp.cls p == 1 || Hp.carter p
  if Hp.smod p == modN s then
    ackLocal s (Hp.atag p) (Hp.cls p) (Hp.src p) tokens copy 
      (if copy then
        let c := (getRegion s (Hp.src p / 4)).carters.getD (Hp.chan p % 8) {}
        Hp.chan p % 8 + 8 * (c.places.findIdx? (· == (Hp.gen p, p.line))).getD 0
      else if Hp.cls p == 4 then egressChan s p else 0) lost
  else
    let k := Hp.smod p * 4096 + Hp.atag p
    let n := s.fab.spent.getD k 0 + tokens
    emit (updFab s (fun f => { f with spent := f.spent.put k 0 })) (.ack (Hp.atag p) (Hp.cls p) (Hp.src p) n (decide (0 < lost)))

/-- A C4 packet is discarded and acknowledged (R14, R17, R27). -/
def discardC4 (s : State) (p : Packet) : State := ackPacket s p 0 (if Hp.carter p then Hp.len p else 1)

/-- ACK_RECEIVE (R20, R28), with the tokens spent, the request that it answers and whether that was discarded or refused: bit 15 of `what` marks
a C1 or C4 packet of a channel. -/
def execAckReceive (tag : Atag) (cls : BitVec 3) (src : BitVec 9) (body : Word × Half × Bool) (s : State) : Out' :=
  runStep (fun s =>
    let (tokens, what, lost) := body
    let copy := (cls == 1 || cls == 4) && !bit what 15
    ackLocal s tag.toNat cls.toNat src.toNat tokens.toNat copy (bitsN what 0 15) (if lost then 1 else 0)) s

/-! ### ENQ (R22, R282) -/

/-- ENQ. -/
def execEnq (d a b : Reg) (s : State) : Out' :=
  runStep (fun s =>
    let va := opA s a
    let v := opB s b
    let i := me s
    let r := s.cur.reg.toNat
    let die := regionDie r
    let dmod := bitsN v 51 13
    if va.toNat % 64 != 0 then trapMisalign s va
    else withBlocks s va [] (fun bs s =>
      if bitsN v 16 35 != 0 || !s.fab.written || (dmod != modN s && !routeValid s dmod) then result s d 2
      else if decide (16 ≤ (getStrand s i).c0) || decide (256 ≤ s.fab.c0q.getD die 0) then result s d 1
      else
        let hdr (n : Nat) : BitVec 128 := mkHdr dmod (bitsN v 11 5) (bitsN v 0 11) (modN s) i 0 (myTeam s).atag n 1 0
        let pay : Line := BitVec.ofNat 512 (ofBytes bs)
        let n := takeSeq s (Hp.stream { hdr := hdr 0 })
        let s := inject n.2 { hdr := hdr n.1, pay := [pay] }
        let s := updFab s (fun f => { f with c0q := f.c0q.put die (f.c0q.getD die 0 + 1) })
        result (updStrand s i (fun st => { st with c0 := st.c0 + 1 })) d 0) 1) s

/-! ### Landing -/

/-- A message reaches an ingress port (R24): LAUNCH and QUEUE ports take it into the ring; others count it. -/
def portMessage (s : State) (p : Nat) (pay : Line) : State :=
  let ip := getIPort s p
  let side := Sb.mk 0 true true false false false false 1
  match Pd.mode ip.desc with
  | 2 => drainPort (ringArrive s p pay side) p
  | 3 => ringArrive s p pay side
  | _ => setIPort s p { ip with rejected := sat64 (ip.rejected + 1) }

/-- The k-th packet, taken out, when it is of the class and has come to its die on this module (R9). -/
def takePacket (s : State) (k cls : Nat) : Option (Packet × State) :=
  match s.fab.inbound[k]? with
  | some p => if Hp.dmod p == modN s && Hp.cls p == cls && p.here == Hp.ddie p && !p.bad then
      some (p, updFab (leaveDie s p) (fun f => { f with inbound := f.inbound.eraseIdx k })) else none
  | none => none

/-- Whether a packet is the next of its stream; `after` counts it (R22, R26). -/
def inSeq (s : State) (p : Packet) : Bool := s.fab.rseqs.getD (Hp.stream p) 0 == Hp.seq p
def afterSeq (s : State) (p : Packet) : State :=
  updFab s (fun f => { f with rseqs := f.rseqs.put (Hp.stream p) ((Hp.seq p + 1) % 65536) })

/-- C0_ARRIVAL (R22, R24, R40). -/
def execC0Arrival (k : Half) (s : State) : Out' :=
  runStep (fun s =>
    match takePacket s k.toNat 0 with
    | none => s
    | some (p, s') =>
      if !inSeq s p then s
      else
        let s := afterSeq s' p
        let port := Hp.ddie p * 2048 + Hp.tgt p % 2048
        let ip := getIPort s port
        let ok := if Hp.smod p == modN s then Pd.loc ip.desc else Pd.remote ip.desc
        let s := if ok then portMessage s port (p.pay.headD 0) else setIPort s port { ip with rejected := sat64 (ip.rejected + 1) }
        ackPacket s p 0 0) s

/-- Home key of a packet's destination address: HBM below 2 TiB, else this module's part of the slice window at 0x2000_0000_0000, whose
bits [44:32] name the module (R157, R158; log 21). -/
def packetKey (s : State) (a : Nat) : Option Nat :=
  if a < 2 ^ 41 then some (hbmKey (modN s) a)
  else if a / 2 ^ 32 == 0x2000 + modN s then some (sliceKey (modN s) (a % 2 ^ 32))
  else none

def packetAddr (p : Packet) : Nat := bitsN p.addr 0 64

/-- The home of a packet's access lets it through (R158): in HBM always, in a slice when the tag is the firmware's, or when the region is
held by a member of a hitch that the source module has a member of. -/
def homeAllows (s : State) (p : Packet) : Bool :=
  let a := packetAddr p
  if decide (a < 2 ^ 41) || Hp.atag p = 0 then true
  else match teamOf s (dieRegion (a / 2 ^ 27 % 32) (a / 2 ^ 25 % 4)) with
    | some t => match t.hitch with
      | some h => (s.ost.hitches.getD h {}).members.contains (Hp.smod p)
      | none => false
    | none => false

/-- A packet whose home has no such address, or refuses it, is logged and acknowledged without effect. -/
def refusePacket (s : State) (p : Packet) : State := errLog (ackPacket s p 0 (if Hp.cls p == 4 then p.pay.length else 1))

/-- A Carter payload is written at its destination and acknowledged (R20, R25, R27), at one token a line, two in HBM (R104). The word of its
address beat above the address counts the bytes of the last line that are not its own (log 21). -/
def landCopy (s : State) (p : Packet) : State :=
  match packetKey s (packetAddr p) with
  | none => refusePacket s p
  | some key =>
    if !homeAllows s p then refusePacket s p
    else
      let n := p.pay.length
      let s := writeBytes s key ((p.pay.flatMap (fun l => toBytes l 64)).take (64 * n - bitsN p.addr 64 64))
      ackPacket s p (if decide (packetAddr p < 2 ^ 41) then 2 * n else n) 0

/-- C1_PACKET_LAND (R25). -/
def execC1PacketLand (k : Half) (s : State) : Out' :=
  runStep (fun s => match takePacket s k.toNat 1 with | some (p, s) => landCopy s p | none => s) s

/-- Bytes of a C3 access by its size code (log 21). -/
def sizeOfCode (c : Nat) : Nat := match c with | 0 => 8 | 1 => 4 | 2 => 2 | _ => 1

/-- The bytes that a C3 operation leaves at its home (R26, R177, R235; log 21): an AMO's, a CAS's when it compares, a store's own. -/
def c3Bytes (op n old : Nat) (pay : Line) : Option (List Byte) :=
  let v := pay.toNat % 2 ^ (8 * n)
  if op ≤ 8 then some (toBytes (BitVec.ofNat 64 (aopNew (8 * n) op old v)) n)
  else if op == 9 then (if old == bitsN pay 64 64 % 2 ^ (8 * n) then some (toBytes (BitVec.ofNat 64 v) n) else none)
  else if op == 11 then some (toBytes (BitVec.ofNat 64 v) n)
  else none

/-- Whether a C3 packet carries an access that the home performs: aligned, and an atomic of 4 or 8 bytes. -/
def c3Good (p : Packet) : Bool :=
  let op := Hp.op p
  let n := sizeOfCode (Hp.size p)
  decide (op ≤ 11) && (decide (4 ≤ n) || op == 10 || op == 11) && packetAddr p % n == 0

/-- C3_ATOMIC_PERFORM (R20, R26, R157, R158, R177): in SEQ order an atomic, load or store of another module is performed at its home and
answered, an atomic and a load with the old value. -/
def execC3AtomicPerform (k : Half) (s : State) : Out' :=
  runStep (fun s =>
    match takePacket s k.toNat 3 with
    | none => s
    | some (p, s') =>
      if !inSeq s p then s
      else
        let s := afterSeq s' p
        match packetKey s (packetAddr p) with
        | none => refusePacket s p
        | some key =>
          if !c3Good p || !homeAllows s p then refusePacket s p
          else
            let n := sizeOfCode (Hp.size p)
            let was := readBytes s key n
            let s := match c3Bytes (Hp.op p) n (ofBytes was) (p.pay.headD 0) with
              | some bs => writeBytes s key bs
              | none => s
            ackPacket (if Hp.op p == 11 then s else emit s (.data (was.map some))) p 0 0) s

/-- The records and markers of a channel packet: the tokens with their sidebands; a packet from outside the machine bears none, and each record's
weight is free (R18, R27; log 52). -/
def packetRecords (free prl : Nat) (p : Packet) : List (List Tok) :=
  if p.side.isEmpty then (List.range (p.pay.length / prl)).map (fun j =>
    (List.range prl).map (fun i => ⟨p.pay.getD (j * prl + i) 0, Sb.mk 0 (i == 0) (i + 1 == prl) false false false false (bitsN (Config.freeWord (free + j)) 0 16)⟩))
  else splitRecords ((p.pay.zip p.side).map (fun x => ⟨x.1, x.2⟩))

/-- A gap of no positions that reports a weight alone, when only the weight of a packet is not the one expected (R27). -/
def weightGap (s : State) (ch : Nat) (g : Gap) : State :=
  updState s ch 0 (fun t => { t with closed := t.closed ++ (if t.gap.cnt == 0 then [] else [t.gap]) ++ [g], gap := {} })

/-- C4_PACKET_LAND (R27): a copy packet is written; a channel packet is checked against the next expected number and weight. -/
def execC4PacketLand (k : Half) (s : State) : Out' :=
  runStep (fun s =>
    match takePacket s k.toNat 4 with
    | none => s
    | some (p, s') =>
      if Hp.carter p then landCopy s' p
      else
        let ch := Hp.tgt p
        let earlier := (s.fab.inbound.take k.toNat).any (fun q => Hp.cls q == 4 && !Hp.carter q && Hp.dmod q == modN s && Hp.tgt q == ch)
        if earlier then s
        else match (s'.chans.find? ch).filter (·.live) with
          | none => errLog (discardC4 s' p)
          | some c =>
            let b := c.branches.getD 0 {}
            let first := bitsN p.addr 0 48
            let cumw := bitsN p.addr 64 64
            if !b.mayAct s.clock 3 then s
            else if decide (first < b.expSeq) then errLog (discardC4 s' p)
            else
              let lost := first - b.expSeq
              let wt := cumw - b.expCumw
              let s := if lost = 0 && wt = 0 then s'
                else if lost = 0 then weightGap s' ch { first := first, wt := wt }
                else arriveGap (bump s' (consTile s' c b).1 0 lost) ch 0 { first := b.expSeq, cnt := lost, wt := wt }
              let rs := packetRecords s.free (max 1 (Head.prl c.head)) p
              let recs := rs.filter (fun r => match r with | t :: _ => !Sb.isMark t.side | [] => false)
              let s := rs.foldl (fun s r => arriveToks s ch 0 r) { s with free := s.free + rs.length }
              let s := updBranch s ch 0 (fun b => { b with expSeq := first + recs.length, expCumw := sat64 (cumw + (recs.map recWeight).sum) })
              stamp (ackPacket s p 0 0) ch 0 3) s

/-! ### Links (R11, R13–R17) -/

def getLink (s : State) (n : Nat) : Link := s.fab.links.getD n {}
def setLink (s : State) (n : Nat) (l : Link) : State := updFab s (fun f => { f with links := f.links.put n l })

/-- The die a link attaches at (R11). -/
def linkDie (n : Nat) : Nat := if n < 8 then n else 24 + (n - 8)

/-- Whether a link carries flits. -/
def Link.carries (l : Link) : Bool := l.en && (l.st == 2 || l.st == 3)

/-- Die at which a host port attaches (R11). -/
def hostDie (port : Bool) : Nat := if port then 23 else 8

/-- Flits that a packet takes (R13, R18): its header, its address beat and its payload, at 240 bytes a flit; each packet begins a flit. -/
def Packet.flits (p : Packet) : Nat := (16 + (if Hp.cls p == 0 then 0 else 64) + 64 * Hp.len p + 239) / 240

def flitsOf (ps : List Packet) : Nat := ps.foldl (fun n p => n + p.flits) 0

/-- The link a packet leaves by (R17): C1 takes the one of primary ∪ alternates with the least queued flits; others the primary, or the
lowest UP alternate when it carries nothing. Of links with equally few the lowest-numbered goes (DESIGN CHOICE: R17 names none; log 53). -/
def pickLink (s : State) (p : Packet) (e : Route) : Option Nat :=
  let prim := e.primary.toNat
  if Hp.cls p == 1 then
    let ok := (List.range 16).filter (fun n => (n == prim || bit e.alternates n) && (getLink s n).carries)
    let load (n : Nat) : Nat := flitsOf (getLink s n).txq
    ok.find? (fun n => ok.all (fun m => decide (load n ≤ load m)))
  else if (getLink s prim).carries then some prim
  else (List.range 16).find? (fun n => bit e.alternates n && (getLink s n).en && (getLink s n).st == 2)

/-! ### Arbitration (R19) -/

/-- Quantum of the deficit round-robin in flits: the longest packet's (log 53). -/
def quantum : Nat := 9

/-- The class that an output serves next among its waiting packets (R19): C0; C4 at its floor; C1, C2 and C3 by deficit round-robin; then
C4. With the deficits as the choice leaves them. -/
def Arb.next (a : Arb) (ps : List Packet) : Option (Packet × Arb) :=
  let head (c : Nat) : Option Packet := ps.find? (fun p => Hp.cls p == c)
  let pay (a : Arb) (c : Nat) (p : Packet) : Arb :=
    let left := a.deficit.getD c 0 - p.flits
    { a with deficit := a.deficit.put c (if (ps.filter (fun q => Hp.cls q == c)).length ≤ 1 then 0 else left), turn := c
             owed := if (head 4).isSome then a.owed + p.flits else 0 }
  match head 0 with
  | some p => some (p, { a with owed := if (head 4).isSome then a.owed + p.flits else 0 })
  | none =>
    let low : Option (Packet × Arb) := (head 4).map (fun p => (p, { a with owed := 0 }))
    match head 4 with
    | some q => if decide (15 * q.flits ≤ a.owed) then low else drr a head pay low
    | none => drr a head pay low
where
  drr (a : Arb) (head : Nat → Option Packet) (pay : Arb → Nat → Packet → Arb) (low : Option (Packet × Arb)) : Option (Packet × Arb) :=
    match (head a.turn).filter (fun p => decide (1 ≤ Hp.cls p) && decide (Hp.cls p ≤ 3) && decide (p.flits ≤ a.deficit.getD a.turn 0)) with
    | some p => some (p, pay a a.turn p)
    | none =>
      match [a.turn % 3 + 1, (a.turn + 1) % 3 + 1, (a.turn + 2) % 3 + 1].findSome? (fun c => (head c).map (fun p => (c, p))) with
      | some (c, p) => some (p, pay { a with deficit := a.deficit.put c (a.deficit.getD c 0 + quantum) } c p)
      | none => low

/-! ### Forwarding (R9, R16, R17) -/

/-- The next die on the way (R9): along x to the column, then along y. -/
def nextDie (here dst : Nat) : Nat :=
  if here % 8 < dst % 8 then here + 1 else if dst % 8 < here % 8 then here - 1
  else if here / 8 < dst / 8 then here + 8 else if dst / 8 < here / 8 then here - 8 else here

/-- The die a packet goes to on this module: its destination's, or that of the link it has been given. -/
def Packet.goal (s : State) (p : Packet) : Option Nat := if Hp.dmod p == modN s then some (Hp.ddie p) else p.link.map linkDie

/-- The packets that wait for a die edge, oldest first. -/
def edgeQueue (s : State) (d e : Nat) : List Packet :=
  s.fab.inbound.filter (fun p => p.here == d && !p.bad && (p.goal s).any (fun g => g != d && nextDie d g == e))

/-- The packet with its hop count lowered by one. -/
def Packet.hop (p : Packet) : Packet := { p with hdr := setBits p.hdr 53 4 (Hp.hops p - 1), left := true }

/-- Whether a die's router takes no more C4 packet for the edge on the way to a die (R27). -/
def edgeFull (s : State) (d goal : Nat) : Bool :=
  d != goal && decide (Config.c4QueueLimit ≤ ((edgeQueue s d (nextDie d goal)).filter (fun q => Hp.cls q == 4)).length)

/-- A packet crosses a die edge when its turn has come (R9, R19); the router behind it discards a C4 packet for which its next edge has no
place (R27). -/
def crossEdge (s : State) (k : Nat) (p : Packet) (goal : Nat) : State :=
  let e := nextDie p.here goal
  let key := p.here * 32 + e
  match (s.fab.edges.getD key {}).next (edgeQueue s p.here e) with
  | some (q, a) =>
    if q != p then s
    else
      let s' := updFab (leaveDie s p) (fun f => { f with edges := f.edges.put key a })
      if Hp.cls p == 4 && edgeFull s e goal then discardC4 (updFab s' (fun f => { f with inbound := f.inbound.eraseIdx k })) p
      else updFab s' (fun f => { f with inbound := f.inbound.set k { p with here := e, left := true } })
  | none => s

/-- Whether an older packet goes ahead of one that would join the queue of link n (R17): one of a link that failed, of its class, on the way
to the same link or module; and, but for C1, one of its class and destination at this die. -/
def Packet.waitsFor (p q : Packet) (n : Nat) : Bool :=
  Hp.cls q == Hp.cls p &&
    ((q.failed && (q.link == some n || Hp.dmod q == Hp.dmod p)) || (Hp.cls p != 1 && q.here == p.here && Hp.dmod q == Hp.dmod p))

/-- A packet for another module is given its link; at the link's die it joins the queue, behind the older ones that go ahead of it; one
more C4 packet than the queue, or the edge on the way there, holds is discarded (R16, R17, R27). -/
def leaveModule (s : State) (k : Nat) (p : Packet) (e : Route) : State :=
  let drop (s : State) : State := updFab s (fun f => { f with inbound := f.inbound.eraseIdx k })
  match p.link with
  | none =>
    match pickLink s p e with
    | some n =>
      if Hp.cls p == 4 && edgeFull s p.here (linkDie n) then discardC4 (drop s) p
      else updFab s (fun f => { f with inbound := f.inbound.set k { p with link := some n } })
    | none => s
  | some n =>
    let l := getLink s n
    if !l.carries then updFab s (fun f => { f with inbound := f.inbound.set k { p with link := none } })
    else if p.here != linkDie n then crossEdge s k p (linkDie n)
    else if (s.fab.inbound.take k).any (fun q => p.waitsFor q n) then s
    else if Hp.cls p == 4 && decide (Config.c4QueueLimit ≤ (l.txq.filter (fun q => Hp.cls q == 4)).length) then discardC4 (leaveDie (drop s) p) p
    else setLink (drop s) n { l with txq := l.txq ++ [{ p with failed := false }] }

/-- PACKET_FORWARD (R9, R15–R17, R19, R27): a packet for this module moves one die on; any other is given a link, moves towards it and
joins its queue; one that R16 discards is logged, and one of C4 acknowledged (R20). -/
def execPacketForward (k : Half) (s : State) : Out' :=
  runStep (fun s =>
    match s.fab.inbound[k.toNat]? with
    | none => s
    | some p =>
      let lose (s : State) : State :=
        let s := errLog (updFab (leaveDie s p) (fun f => { f with inbound := f.inbound.eraseIdx k.toNat }))
        if Hp.cls p == 4 then discardC4 s p else s
      if p.bad then lose s
      else if Hp.dmod p == modN s then (if p.here == Hp.ddie p then s else crossEdge s k.toNat p (Hp.ddie p))
      else if !s.fab.written then s
      else
        let e := s.fab.routes.getD (Hp.dmod p) {}
        if !e.valid || Hp.hops p == 0 then lose s else leaveModule s k.toNat p e) s

/-- Send the packets of a link that stopped carrying by their other routes (R14, R17): C4 is discarded with an acknowledgement, the rest
goes ahead of newer packets of its class; a packet without a route waits at the link's die. -/
def failover (s : State) (n : Nat) : State :=
  let l := getLink s n
  let ps := l.unacked ++ l.txq
  let s := setLink s n { l with unacked := [], txq := [], arb := {} }
  let s := (ps.filter (fun p => Hp.cls p == 4)).foldl (fun s p => discardC4 (leaveDie s p) p) s
  (ps.filter (fun p => Hp.cls p != 4)).reverse.foldl (fun s p =>
    updFab s (fun f => { f with inbound := { p with here := linkDie n, link := pickLink s p (s.fab.routes.getD (Hp.dmod p) {}), failed := true } :: f.inbound })) s

/-! ### The link layer (R13) -/

/-- The flits of a link's next packet are sent, when the replay buffer has room for them (R13, R19). -/
def sendFlits (s : State) (n : Nat) : State :=
  let l := getLink s n
  match l.arb.next l.txq with
  | some (p, a) =>
    if l.carries && s.fab.written && decide (flitsOf l.unacked + p.flits ≤ 512) then
      let s := setLink (leaveDie s p) n { l with txq := l.txq.erase p, unacked := l.unacked ++ [{ p with left := true }], arb := a
                                                 txSeq := l.txSeq + BitVec.ofNat 12 p.flits }
      emit s (.packet p.hop)
    else s
  | none => s

/-- The far end asks for a replay: every packet that it has not acknowledged is sent again (R13). -/
def replayFlits (s : State) (n : Nat) : State :=
  let l := getLink s n
  if !l.carries || l.unacked.isEmpty then s
  else l.unacked.foldl (fun s p => emit s (.packet p.hop)) (setLink s n { l with replay := min (l.replay + 1) 65535 })

/-- FLIT_RECEIVE (R13, R15): the flits of one packet arrive at a link and are acknowledged; a CRC failure is counted, and the far end is
asked for a replay from there; flits out of their order are not taken. A C4 packet that finds its first edge full is discarded (R27). -/
def execFlitReceive (link : BitVec 4) (seq : BitVec 12) (crcOk : Bool) (hdr : BitVec 128) (addr : Line) (pay : List Line) (s : State) : Out' :=
  runStep (fun s =>
    let n := link.toNat
    let l := getLink s n
    let p : Packet := { hdr := hdr, addr := addr, pay := pay, left := true, here := linkDie n }
    let next := l.rxSeq + BitVec.ofNat 12 p.flits
    if !s.fab.written || !l.carries then s
    else if !crcOk then emit (setLink s n { l with crcerr := min (l.crcerr + 1) 65535 }) (.flits n l.rxSeq.toNat false)
    else if seq != l.rxSeq then s
    else
      let s := setLink s n { l with rxSeq := next }
      let full := Hp.cls p == 4 && !p.bad && Hp.dmod p == modN s && edgeFull s p.here (Hp.ddie p)
      emit (if full then discardC4 s p else updFab s (fun f => { f with inbound := f.inbound ++ [p] })) (.flits n (next - 1).toNat true)) s

/-- LANE_FAIL (R14, R17). -/
def execLaneFail (link : BitVec 4) (lane : BitVec 2) (s : State) : Out' :=
  runStep (fun s =>
    let l := getLink s link.toNat
    if !l.carries || !bit l.lanes lane.toNat then s
    else
      let lanes : BitVec 4 := setBits l.lanes lane.toNat 1 0
      if decide (2 ≤ popcount lanes) then setLink s link.toNat { l with lanes := lanes, st := 3 }
      else failover (setLink s link.toNat { l with lanes := 0, st := 0 }) link.toNat) s

/-- An enabled link that is DOWN starts to train (R14). -/
def startTraining (s : State) (n : Nat) : State :=
  let l := getLink s n
  if l.en && l.st == 0 && s.fab.written then setLink s n { l with st := 1 } else s

/-- LINK_TRAINED (R14): an enabled link that trains, or trains again, comes UP with four lanes and DEGRADED with two or three. -/
def execLinkTrained (link : BitVec 4) (peer : ModId) (lanes : BitVec 4) (s : State) : Out' :=
  runStep (fun s =>
    let l := getLink s link.toNat
    let n := popcount lanes
    if !l.en then s
    else
      let l := if l.carries then l else { l with rxSeq := 0, txSeq := 0 }
      if n < 2 then failover (setLink s link.toNat { l with st := 0, lanes := 0 }) link.toNat
      else setLink s link.toNat { l with peer := peer.toNat, lanes := lanes, st := if n == 4 then 2 else 3 }) s

/-- A write of EN (R14, R15): an enabled link is DOWN until it trains. -/
def enableLink (s : State) (n : Nat) (en : Bool) : State :=
  let l := getLink s n
  if en then (if l.en || !s.fab.written then s else setLink s n { l with en := true, st := 0, lanes := 0 })
  else failover (setLink s n { l with en := false, st := 4, lanes := 0 }) n

/-- FLSTAT_ENABLE (R14). -/
def execFlstatEnable (link : BitVec 4) (en : Bool) (s : State) : Out' := runStep (fun s => enableLink s link.toNat en) s

/-- FLSTAT_COUNTER_CLEAR (R14): a 1 in a counter's field clears it. -/
def clearCounters (s : State) (n : Nat) (v : Word) : State :=
  let l := getLink s n
  setLink s n { l with crcerr := if bitsN v 48 16 == 0 then l.crcerr else 0, replay := if bitsN v 32 16 == 0 then l.replay else 0 }

def execFlstatCounterClear (link : BitVec 4) (val : Word) (s : State) : Out' := runStep (fun s => clearCounters s link.toNat val) s

/-! ### Module id and routes (R15, R16) -/

/-- A home key under another module id. -/
def rekey (old new key : Nat) : Nat := if key / 2 ^ 48 == old then new * 2 ^ 48 + key % 2 ^ 48 else key

def rekeyWait (old new : Nat) (w : Wait) : Wait :=
  { w with on := match w.on with
      | .lock key => .lock (rekey old new key)
      | .counter key t => .counter (rekey old new key) t
      | x => x }

/-- This module's memory under its new id. -/
def rekeyMem (s : State) (old new : Nat) : State :=
  let mine := s.mem.filter (fun c => c.1 / 2 ^ 48 == old)
  let theirs := s.mem.filter (fun c => c.1 / 2 ^ 48 == new)
  let s := theirs.foldl (fun s c => writeBytes s c.1 [Memory.blank]) s
  let s := mine.foldl (fun s c => writeBytes s c.1 [Memory.blank]) s
  mine.foldl (fun s c => writeBytes s (rekey old new c.1) [c.2]) s

/-- Everything that names a home of this module follows its id. -/
def moveId (s : State) (old new : Nat) : State :=
  let rk := rekey old new
  let g (x : Nat) : Nat := if x / 512 == old then new * 512 + x % 512 else x
  let poison := s.poison
  let s := rekeyMem s old new
  { s with
    fab := { s.fab with modId := BitVec.ofNat 13 new, written := true }
    poison := poison.map rk
    strands := s.strands.mapVals (fun _ st => { st with
      wait := st.wait.map (rekeyWait old new)
      view := { st.view with snap := ⟨st.view.snap.cells.map (fun c => (rk c.1, c.2))⟩
                             stores := st.view.stores.map (fun p => { p with key := rk p.key }) }
      sent := st.sent.map (fun q => { q with key := rk q.key })
      wbuf := st.wbuf.map (fun l => (rk (l.1 * 64) / 64, l.2)) })
    part := s.part.map (fun p => { p with key := rk p.key })
    hidden := s.hidden.map (fun h => (rk h.1, h.2))
    teams := s.teams.mapVals (fun _ t => { t with deps := t.deps.map (fun d => (rk d.1, d.2)) })
    teth := { s.teth with locks := ⟨s.teth.locks.cells.map (fun c => (rk c.1, c.2))⟩
                          entries := s.teth.entries.map (fun e => { e with waiter := g e.waiter, owner := e.owner.map g })
                          walks := s.teth.walks.map g }
    power := { s.power with dies := s.power.dies.mapVals (fun _ d => { d with farrier := d.farrier.map (fun f => { f with counter := f.counter.map rk }) }) } }

/-- MODULE_ID_WRITE (R15): refused while a link is enabled. -/
def execModuleIdWrite (id : ModId) (s : State) : Out' :=
  runStep (fun s =>
    if s.fab.links.vals.any (·.en) then refuse s "MODULE_ID_WRITE" "REFUSED"
    else if id == s.fab.modId then reply (updFab s (fun f => { f with written := true })) "MODULE_ID_WRITE"
    else reply (moveId s (modN s) id.toNat) "MODULE_ID_WRITE") s

/-- ROUTE_TABLE_WRITE (R16). -/
def execRouteTableWrite (i : ModId) (valid : Bool) (primary : BitVec 4) (alternates : Half) (s : State) : Out' :=
  runStep (fun s => updFab s (fun f => { f with routes := f.routes.put i.toNat { valid := valid, primary := primary, alternates := alternates } })) s

end Sys2Proof.Machine
end

