-- ==== Sys2Proof/Machine/Carters.lean ====
section
/-! DEFINITION. The Carters (R165–R170): a copy begins, moves one destination line at a time, and ends with its completion add. -/

namespace Sys2Proof.Machine

/-! ### Templates (R167) -/

namespace Tp
def word (t : List Word) (k : Nat) : Word := t.getD k 0
def cnt (t : List Word) (k l : Nat) : Nat := bitsN (word t k) (16 * l) 16
def total (t : List Word) (k : Nat) : Nat := cnt t k 0 * cnt t k 1 * cnt t k 2 * cnt t k 3
/-- Byte stride of level 1–3 of the source (k = 4) or destination (k = 6). -/
def str (t : List Word) (k l : Nat) : Word := ((bits (word t (k + (l - 1) / 2)) (32 * ((l - 1) % 2)) 32 : Word32)).signExtend 64
def sfmt (t : List Word) : Nat := bitsN (word t 10) 0 4
def dfmt (t : List Word) : Nat := bitsN (word t 10) 4 4
def rnd (t : List Word) : Nat := bitsN (word t 10) 8 3
def sat (t : List Word) : Bool := bit (word t 10) 11
def lossy (t : List Word) : Bool := bit (word t 10) 12
def atomic (t : List Word) : Bool := bit (word t 10) 13
def suspendable (t : List Word) : Bool := bit (word t 10) 14
/-- Bytes of an element. -/
def size (f : Nat) : Nat := match Ty.ofCode f with | some t => t.width / 8 | none => 1
/-- Destination bytes of the whole copy. -/
def bytes (t : List Word) : Nat := total t 3 * size (dfmt t)
/-- Address of element e of the source (cw = 2) or destination (cw = 3). -/
def addr (t : List Word) (cw : Nat) (off : Word) (e : Nat) : Word :=
  let f := if cw == 2 then sfmt t else dfmt t
  let sw := if cw == 2 then 4 else 6
  let i0 := e % max 1 (cnt t cw 0)
  let e1 := e / max 1 (cnt t cw 0)
  let i1 := e1 % max 1 (cnt t cw 1)
  let e2 := e1 / max 1 (cnt t cw 1)
  let i2 := e2 % max 1 (cnt t cw 2)
  let i3 := e2 / max 1 (cnt t cw 2)
  word t (cw - 2) + off + BitVec.ofNat 64 i1 * str t sw 1 + BitVec.ofNat 64 i2 * str t sw 2 + BitVec.ofNat 64 i3 * str t sw 3
    + BitVec.ofNat 64 (i0 * size f)
end Tp

def getCarter (s : State) (r c : Nat) : Carter := (getRegion s r).carters.getD c {}
def setCarter (s : State) (r c : Nat) (k : Carter) : State := updRegion s r (fun g => { g with carters := g.carters.put c k })
def updCopy (s : State) (r c : Nat) (f : Copy → Copy) : State := let k := getCarter s r c; setCarter s r c { k with cur := k.cur.map f }

/-- CARTER_COPY_BEGIN (R166, R169): the next start leaves the queue and reads its template. -/
def execCarterCopyBegin (r : RegionId) (c : BitVec 3) (s : State) : Out' :=
  runStep (fun s =>
    let rn := r.toNat
    let k := getCarter s rn c.toNat
    match k.cur, k.queue, engineTeam s rn with
    | none, q :: rest, some t =>
      if t.leave.closed then s
      else
        let gen := (k.gen + 1) % 65536
        setCarter s rn c.toNat { k with queue := rest, gen := gen, cur := some { start := q, tmpl := t.tmpl.getD (bitsN q.word 0 16) [], gen := gen } }
    | _, _, _ => s) s

/-- Elements that one line takes from element e on: contiguous in the destination, within one 64-byte line, up to the next multiple of
4 KiB of destination bytes. -/
def lineElems (t : List Word) (off : Word) (e stop : Nat) (prev line : Nat) : Nat → Nat
  | 0 => 0
  | n + 1 =>
    let sz := Tp.size (Tp.dfmt t)
    let a := (Tp.addr t 3 off e).toNat
    if decide (stop ≤ e) || (prev != 0 && (a != prev || (a + sz - 1) / 64 != line || e * sz / 4096 != (e * sz - sz) / 4096)) then 0
    else 1 + lineElems t off (e + 1) stop (a + sz) (if prev = 0 then a / 64 else line) n

/-- Translate the bytes of n elements. -/
def elemPieces (s : State) (c : Space) (t : List Word) (cw : Nat) (off : Word) (e : Nat) (k : Acc) : Nat → Except XFault (List Piece)
  | 0 => .ok []
  | n + 1 =>
    match engineXl s c (Tp.addr t cw off e) (Tp.size (if cw == 2 then Tp.sfmt t else Tp.dfmt t)) k with
    | .error f => .error f
    | .ok ps => (elemPieces s c t cw off (e + 1) k n).map (ps ++ ·)

/-- The accesses to n elements, once no page of theirs must wait for a walk (R160). -/
def withElems (s : State) (c : Space) (t : List Word) (cw : Nat) (off : Word) (e : Nat) (k : Acc) (n : Nat) (f : State → State) : State :=
  let sz := Tp.size (if cw == 2 then Tp.sfmt t else Tp.dfmt t)
  let vas := (List.range n).map (fun j => Tp.addr t cw off (e + j))
  if vas.any (fun va => engineBlocked s c va sz k) then vas.foldl (fun s va => engineQueue s c va sz k) s
  else f (vas.foldl (fun s va => enginePrep s c va sz k) s)

/-- Convert the elements of a line, each once (R167, R169). -/
def convertElems (t : List Word) (lfsr : Word32) (bs : List Byte) (n : Nat) : List Byte × Word32 :=
  match Ty.ofCode (Tp.sfmt t), Ty.ofCode (Tp.dfmt t) with
  | some a, some b =>
    if a == b then (bs, lfsr)
    else
      let sz := Tp.size (Tp.sfmt t)
      let vs := (List.range n).map (fun k => decodeLane a (ofBytes ((bs.drop (sz * k)).take sz)))
      let x := roundEach (Tp.rnd t) (fun r v => encodeLane a b (Tp.rnd t) (Tp.sat t) r v) lfsr vs
      (x.1.flatMap (fun v => toBytes (BitVec.ofNat 64 v) (Tp.size (Tp.dfmt t))), x.2)
  | _, _ => (bs, lfsr)

/-- 64-byte lines that bytes [a, b) of a pattern complete or begin. -/
def linesBetween (a b : Nat) : Nat := (b + 63) / 64 - (a + 63) / 64

/-- A Carter channel parks (R162). -/
def parkCarter (s : State) (r c : Nat) (t : Team) (k : Acc) (f : XFault) : State :=
  match (getCarter s r c).cur with
  | none => s
  | some x =>
    let e := faultEntry f.va f.code.toNat 2 k.kind t.atag r 0 c f.mal f.lvl x.start.num (bitsN x.start.word 0 16)
    postFault (updCopy s r c (fun x => { x with park := some { va := f.va, cause := f.code, kind := BitVec.ofNat 2 k.kind, num := x.start.num, mal := f.mal, lvl := f.lvl } })) (regionDie r) e

/-- A copy ends: its number retires and the channel is free. -/
def endCopy (s : State) (r c num : Nat) : State := retireNumber (setCarter s r c (getCarter s r c).ended) r num

/-- A copy ends with CARTER_FAULT for the strand that stored its start word (R170); with 16 causes pending there it waits. -/
def failCopy (s : State) (r c : Nat) (va : Word) : State :=
  match (getCarter s r c).cur with
  | none => s
  | some x =>
    let y := pendAsync s (r * 4 + x.start.strand.toNat) { code := 0x16, tval := va, tseq := x.start.num }
    if y.1 then endCopy y.2 r c x.start.num else s

/-- A translation fault of a copy (R170): a suspendable one parks; any other ends with CARTER_FAULT. -/
def carterFault (s : State) (r c : Nat) (t : Team) (k : Acc) (f : XFault) : State :=
  match (getCarter s r c).cur with
  | none => s
  | some x => if Tp.suspendable x.tmpl then parkCarter s r c t k f else failCopy s r c f.va

/-- A line of n bytes for another module leaves in a packet (R25, R27; log 21): C1 or C4 as the template says. -/
def sendLine (s : State) (r c : Nat) (t : Team) (x : Copy) (key n : Nat) (pay : Line) : State :=
  let ch := regionWithin r * 8 + c
  let cls := if Tp.lossy x.tmpl then 4 else 1
  let csp := if cls == 1 then ch * 2 ^ 26 + x.gen * 2 ^ 10 else 2 ^ 30 + ch * 2 ^ 25 + x.gen * 2 ^ 9
  let s := inject s { hdr := mkHdr (key / 2 ^ 48) (keyDie key) 0 (modN s) (r * 4 + x.start.strand.toNat) cls t.atag 0 1 csp
                      addr := BitVec.ofNat 512 (awayAddr key + (64 - n) * 2 ^ 64), pay := [pay], line := x.issued }
  updCopy (updTeam s t.id (fun t => { t with flying := t.flying + 1 })) r c (fun x => { x with flying := x.flying ++ [x.issued] })

/-- Whether a copy must stop here (R170): the team is closed or its quota is spent, at a multiple of 4 KiB, without ATOMIC. -/
def mustSuspend (t : Team) (x : Copy) : Bool :=
  (t.leave.closed || t.energy.exh) && !Tp.atomic x.tmpl && decide (x.issued % 4096 < Tp.size (Tp.dfmt x.tmpl))

/-- One line of a copy (R104, R156, R164, R169, R215): elements e to e + n − 1. A line for another module is charged there (R104). -/
def moveElems (s : State) (r c : Nat) (t : Team) (k : Carter) (x : Copy) (e n : Nat) : State :=
  let sp := t.spaceAt t.svm r
  let off := (x.start.word >>> 16)
  let dsz := Tp.size (Tp.dfmt x.tmpl)
  let ssz := Tp.size (Tp.sfmt x.tmpl)
  match elemPieces s sp x.tmpl 2 off e .read n with
  | .error f => carterFault s r c t .read f
  | .ok src => match elemPieces s sp x.tmpl 3 off e .write n with
    | .error f => carterFault s r c t .write f
    | .ok dst => match badAt s src with
      | some bad => engineCheck s t.id bad
      | none =>
        let y := convertElems x.tmpl k.lfsr (readPieces s src) n
        let upto := x.issued + n * dsz
        let key := (dst.map (·.key)).headD 0
        let far := awayKey s key
        let cost := linesBetween (e * ssz) ((e + n) * ssz) * (if src.any Piece.hbm then 2 else 1)
          + (if far then 0 else linesBetween x.issued upto * (if dst.any Piece.hbm then 2 else 1))
        let s := chargeTeam (accountPieces (accountPieces s src) dst) t.id cost
        let s := setCarter s r c { k with lfsr := y.2 }
        let s := if far && Tp.lossy x.tmpl then s else writePieces s dst y.1
        let s := if far then sendLine s r c t x key (n * dsz) (BitVec.ofNat 512 (ofBytes y.1)) else s
        let s := updCopy s r c (fun x => { x with issued := upto, susp := false })
        match watchPieces s t.atag src .read, watchPieces s t.atag dst .write with
        | some va, hit => parkCarter (updCopy s r c (fun x => { x with more := hit })) r c t .read { va := va, code := 0x06 }
        | none, some va => parkCarter s r c t .write { va := va, code := 0x06 }
        | none, none => s

/-- The next line of a copy. -/
def moveLine (s : State) (r c : Nat) (t : Team) (k : Carter) (x : Copy) : State :=
  let sp := t.spaceAt t.svm r
  let off := (x.start.word >>> 16)
  let e := x.issued / Tp.size (Tp.dfmt x.tmpl)
  let n := lineElems x.tmpl off e (Tp.total x.tmpl 3) 0 0 64
  withElems s sp x.tmpl 2 off e .read n (fun s => withElems s sp x.tmpl 3 off e .write n (fun s => moveElems s r c t k x e n))

/-- A line that its home refused is a fault of its copy at that line; when it parks, RESUME sends the line again (R158, R163, R170). -/
def refusedLine (s : State) (r c : Nat) (t : Team) (x : Copy) (n : Nat) : State :=
  let va := Tp.addr x.tmpl 3 (x.start.word >>> 16) (n / Tp.size (Tp.dfmt x.tmpl))
  if Tp.suspendable x.tmpl then
    parkCarter (updCopy s r c (fun x => { x with refused := x.refused.tail, again := some n })) r c t .write { va := va, code := 0x05 }
  else failCopy s r c va

/-- The line at destination byte n is moved once more, and the copy goes on where it stood (R163). -/
def moveAgain (s : State) (r c : Nat) (t : Team) (k : Carter) (x : Copy) (n : Nat) : State :=
  let s := moveLine (updCopy s r c (fun x => { x with issued := n })) r c t k { x with issued := n }
  updCopy s r c (fun y => { y with issued := x.issued, again := if y.issued = n then some n else none })

/-- CARTER_LINE (R164, R169, R170): what a copy owes comes before its next line. -/
def execCarterLine (r : RegionId) (c : BitVec 3) (s : State) : Out' :=
  runStep (fun s =>
    let rn := r.toNat
    let k := getCarter s rn c.toNat
    match k.cur, engineTeam s rn with
    | some x, some t =>
      if x.park.isSome then s
      else match x.more, x.again, x.refused with
      | some va, _, _ => parkCarter (updCopy s rn c.toNat (fun x => { x with more := none })) rn c.toNat t .write { va := va, code := 0x06 }
      | none, some n, _ => moveAgain s rn c.toNat t k x n
      | none, none, n :: _ => refusedLine s rn c.toNat t x n
      | none, none, [] =>
      if decide (Tp.bytes x.tmpl ≤ x.issued) then s
      else if mustSuspend t x then (if x.flying.isEmpty then updCopy s rn c.toNat (fun x => { x with susp := true }) else s)
      else moveLine s rn c.toNat t k x
    | _, _ => s) s

/-- The completion add of a copy to a counter of this module (R169); a watch hit parks the channel after it (R164). -/
def completeHere (s : State) (r c : Nat) (t : Team) (x : Copy) (ps : List Piece) : State :=
  let key := (ps.map (·.key)).headD 0
  let s := writeWord (accountPieces s ps) key (readWord s key + Tp.word x.tmpl 9)
  match watchPieces s t.atag ps .atomic with
  | some va => parkCarter (updCopy s r c (fun x => { x with tmpl := x.tmpl.set 8 0 })) r c t .atomic { va := va, code := 0x06 }
  | none => endCopy s r c x.start.num

/-- The completion add of a copy to a counter of another module is sent as a C3 atomic with a release (R25, R169, R178). -/
def completeAway (s : State) (r c : Nat) (t : Team) (x : Copy) (key : Nat) : State :=
  let s := sendC3 s (r * 4 + x.start.strand.toNat) t.atag (keyDie key) key 8 0 false true (toBytes (Tp.word x.tmpl 9) 8)
  updCopy (updTeam s t.id (fun t => { t with flying := t.flying + 1 })) r c (fun x => { x with adding := true })

/-- CARTER_COMPLETE (R25, R169, R178): every line is acknowledged; CADD is added to CADDR with a release, and the number retires. -/
def execCarterComplete (r : RegionId) (c : BitVec 3) (s : State) : Out' :=
  runStep (fun s =>
    let rn := r.toNat
    match (getCarter s rn c.toNat).cur, engineTeam s rn with
    | some x, some t =>
      if x.park.isSome || x.adding || !x.flying.isEmpty || decide (x.issued < Tp.bytes x.tmpl) || x.more.isSome || x.again.isSome || !x.refused.isEmpty then s
      else
        let caddr := Tp.word x.tmpl 8
        let sp := t.spaceAt t.svm rn
        if caddr = 0 then endCopy s rn c.toNat x.start.num
        else if caddr.toNat % 8 != 0 then failCopy s rn c.toNat caddr
        else if x.denied then carterFault (updCopy s rn c.toNat (fun x => { x with denied := false })) rn c.toNat t .atomic { va := caddr, code := 0x05 }
        else withEngine s sp caddr 8 .atomic (fun s => match engineXl s sp caddr 8 .atomic with
          | .error f => carterFault s rn c.toNat t .atomic f
          | .ok ps =>
            let key := (ps.map (·.key)).headD 0
            if awayKey s key then completeAway s rn c.toNat t x key
            else match badAt s ps with
              | some bad => engineCheck s t.id bad
              | none => completeHere s rn c.toNat t x ps)
    | _, _ => s) s

end Sys2Proof.Machine
end

