-- ==== Sys2Proof/Machine/Readback.lean ====
section
/-! DEFINITION. The readback aperture (R48, R225–R228): the words of every object class. -/

namespace Sys2Proof.Machine

/-- Pad a list of words to n. -/
def wordsTo (n : Nat) (l : List Word) : List Word := (l ++ List.replicate (n - l.length) 0).take n

/-- A value of 64·n bits as n words. -/
def splitWords {m : Nat} (v : BitVec m) (n : Nat) : List Word := (List.range n).map (fun k => bits v (64 * k) 64)

/-- Class 0x01: registers and PC. -/
def objRegs (s : State) (i : Nat) : List Word := let st := getStrand s i; st.regs.toList ++ [st.pc]

/-- Class 0x02: special register of index n at 8·n. -/
def objSpecials (s : State) (i : Nat) : List Word := (List.range 0x24).map (fun n => if specialAssigned n then readSpecial s i n else 0)

/-- Class 0x03: the frame as last written (R208). -/
def objFrame (s : State) (i : Nat) : List Word := wordsTo 80 (getStrand s i).traps.frame

/-- The words of a chain (R119). -/
def chainWords (c : Chain) : List Word :=
  BitVec.ofNat 64 (c.base.toNat * 2 ^ 32 + (if c.wrap then 8 else 0) + c.lsel)
    :: (List.range 6).map (fun l => let x := c.levels.getD l {}; BitVec.ofNat 64 (x.i * 2 ^ 48 + x.count * 2 ^ 32 + x.stride.toNat))

/-- A section table word: armed and count (R302). -/
def sectWord (x : Sect) : Word := BitVec.ofNat 64 ((if x.armed then 2 ^ 32 else 0) + x.count)

/-- A context of class 0x04 (256 words). -/
def ctxWords (s : State) (r : Nat) (x : Nat) (c : Ctx) : List Word :=
  (List.range 4).flatMap (fun a => splitWords (c.actor a).hdr 2)
  ++ (List.range 64).map (fun k => c.fire.getD k 0)
  ++ (List.range 16).flatMap (fun k => splitWords (c.consts.getD k 0) 8)
  ++ (List.range 16).map (fun k => sectWord (getSect s r x k))
  ++ (List.range 4).map (fun a => let y := c.actor a; BitVec.ofNat 64 (y.remaining % 2 ^ 32 * 2 ^ 32 + (y.credit % 65536).toNat * 65536 + y.weight % 256))
  ++ (List.range 4).flatMap (fun a => let y := c.actor a
      [BitVec.ofNat 64 (y.nrec * 2 ^ 32 + y.ww % 2 ^ 32), BitVec.ofNat 64 ((if y.wg then 2 ^ 32 else 0) + y.ngap % 2 ^ 32)])

/-- Class 0x04: a tile. -/
def objTile (s : State) (r tile : Nat) : List Word :=
  let t := getTile s r tile
  let acc (k : Nat) : Nat := (t.acc.getD k 0).toNat
  (List.range 16).flatMap (fun k => splitWords (t.v.getD k 0) 8)
  ++ (List.range 1024).map (fun k => BitVec.ofNat 64 (acc (2 * k) + acc (2 * k + 1) * 2 ^ 32))
  ++ (List.range 4).flatMap (fun c => wordsTo 8 (chainWords (t.chains.getD c {})))
  ++ [t.lfsr.setWidth 64] ++ (List.range 8).map (fun n => (t.jl.getD n 1).setWidth 64)
  ++ List.replicate 7 0
  ++ [BitVec.ofNat 64 (t.active * 256 + t.gait.req.toNat)] ++ List.replicate 3 0 ++ splitWords t.latch 4 ++ List.replicate 8 0
  ++ (List.range 4).flatMap (fun x => wordsTo 256 (ctxWords s r x (t.ctxs.getD x {})))

/-- Class 0x05: a channel (R135). -/
def objChan (s : State) (ch : Nat) : List Word :=
  match s.chans.find? ch with
  | none => []
  | some c =>
    let b (k : Nat) : Branch := c.branches.getD k {}
    let here (k : Nat) : Bool := decide (k < c.branches.length)
    splitWords c.head 2
    ++ (List.range 4).flatMap (fun k => if here k then splitWords (b k).word 4 else List.replicate 4 0)
    ++ (List.range 4).flatMap (fun k => if here k then splitWords (b k).stateBits 6 ++ [BitVec.ofNat 64 (b k).st.gap.cwt, 0] else List.replicate 8 0)

/-- Stored tokens in a landing buffer, in landing order: payload and sideband. A record's gaps stand before it as GAP markers (R231). -/
def landedToks (b : Branch) : List (Line × BitVec 24) :=
  b.buf.flatMap (fun i =>
    (i.gaps.map (fun g => ((gapTok g).pay, (gapTok g).side)))
    ++ (if i.mark then i.toks.map (fun t => (t.pay, t.side))
      else ((i.units (Br.cfmt b.word)).zip (i.slots.zip (List.range i.slots.length))).filterMap (fun u =>
        if u.2.1.isNone then some (u.1, (match i.toks[u.2.2]? with | some t => t.side | none => 0)) else none)))

/-- Class 0x06: the landing buffers of a tile's eight endpoints. -/
def objLanding (s : State) (r tile : Nat) : List Word :=
  (List.range 8).flatMap (fun ep =>
    let ts := match inBranch s r tile ep with | some cb => landedToks (getBranch s cb.1 cb.2) | none => []
    wordsTo 128 (ts.flatMap (fun t => splitWords t.1 8)) ++ wordsTo 16 (ts.map (fun t => t.2.setWidth 64)))

/-- A tether entry (R76). -/
def tethWords (e : Teth) : List Word :=
  let o := e.owner.getD 0
  [e.obj, BitVec.ofNat 64 (e.waiter % 2 ^ 22 * 2 ^ 42 + o % 2 ^ 22 * 2 ^ 20 + (if e.owner.isSome then 2 ^ 19 else 0) + e.kind.toNat * 2 ^ 16
    + e.prio.toNat * 2 ^ 13 + 2 ^ 12 + e.atag.toNat)]

/-- Class 0x08. -/
def objTether (s : State) (die idx : Nat) : List Word :=
  if idx = 512 then [BitVec.ofNat 64 s.teth.tovf, BitVec.ofNat 64 s.teth.tlong, BitVec.ofNat 64 s.teth.knots]
  else match (s.teth.entries.filter (fun e => tethHome e.obj == die))[idx]? with
    | some e => tethWords e
    | none => []

/-- Job-card state (its layout is the model's, log 23). -/
def cardWords (c : Card) : List Word :=
  [c.entry, c.args, BitVec.ofNat 64 (c.retry * 2 ^ 48 + c.rsz * 2 ^ 32 + c.n), c.jdone, c.jstat, BitVec.ofNat 64 c.remaining, BitVec.ofNat 64 c.used,
   BitVec.ofNat 64 (match c.failed with | some n => 2 ^ 63 + n | none => 0)]
  ++ c.queue.map (fun q => BitVec.ofNat 64 (q.die * 2 ^ 59 + (if q.dealt then 2 ^ 58 else 0) + q.last * 2 ^ 48 + q.attempt * 2 ^ 32 + q.index))

/-- The launch packets that a ring in LAUNCH mode holds behind the head, oldest first: the ring is the queue (R60). -/
def ringPackets (s : State) (p : Nat) : List Word :=
  let ip := getIPort s p
  let d := ip.live
  if Pd.mode d != 2 then []
  else match portSpace s d, occOf s d with
    | some c, some n => (List.range n).flatMap (fun k => match slotKeys s c d (ip.entry - n + k) .read with
        | some q => if Sb.isMark ((readWord s q.2).setWidth 24) then [] else (List.range 8).map (fun j => readWord s (q.1 + 8 * j))
        | none => [])
    | _, _ => []

/-- Class 0x09. -/
def objOstler (s : State) (die rwd idx : Nat) : List Word :=
  if idx = 4096 then (match (teamOf s (dieRegion die rwd)).bind (·.card) with | some c => cardWords c | none => [])
  else if 2050 ≤ idx then []
  else (s.ost.queues.getD (die * 2050 + idx) []).flatMap (fun id => splitWords (getTeam s id).packet 8)
    ++ (if idx < 2048 then ringPackets s (die * 2048 + idx) else [])

/-- Class 0x0A: a port of the die. -/
def objPort (s : State) (die idx : Nat) : List Word := if idx < 2048 then splitWords (getIPort s (die * 2048 + idx)).desc 4 else []

/-- Class 0x0B: a Carter channel of the die, or a template of the region's team (R167, R168). -/
def objCarter (s : State) (die rwd idx : Nat) : List Word :=
  if 1024 ≤ idx then wordsTo 16 (((teamOf s (dieRegion die rwd)).getD {}).tmpl.getD (idx - 1024) [])
  else if 32 ≤ idx then []
  else
    let k := getCarter s (dieRegion die (idx / 8)) (idx % 8)
    [carterStatus k, BitVec.ofNat 64 k.lost, BitVec.ofNat 64 ((k.cur.map Copy.done).getD 0)] ++ wordsTo 16 (k.queue.map (·.word))

/-- Class 0x0C. -/
def objFaults (s : State) (die idx : Nat) : List Word :=
  if 1056 ≤ idx then []
  else if 1024 ≤ idx then (match s.trans.watch.find? (die * 32 + (idx - 1024)) with | some f => splitWords f 2 | none => [])
  else if idx = 512 then [ofBool (s.trans.fqovf.contains die)]
  else match (s.trans.fq.getD die [])[idx]? with
    | some e => [e.w0, e.w1, e.w2, e.w3]
    | none => []

/-- Class 0x0D: the command log (R226). -/
def objLog (s : State) (i : Nat) : List Word :=
  (List.range 1024).flatMap (fun k => match (getStrand s i).cmdlog.find? k with
    | some e => [BitVec.ofNat 64 (2 ^ 63 + e.1), e.2]
    | none => [0, 0])

/-- A phase record (R227). -/
def phaseWords (clock : Nat) (p : Phase) : List Word :=
  let fin := p.stop.getD clock
  let first := p.firstFire.getD fin
  let last := max first (p.lastDone.getD first)
  [BitVec.ofNat 64 p.seq, BitVec.ofNat 64 p.load, BitVec.ofNat 64 (first - p.start), BitVec.ofNat 64 (last - first), BitVec.ofNat 64 (fin - last),
   BitVec.ofNat 64 p.fires, BitVec.ofNat 64 p.draw, ofBool p.stop.isNone]

/-- Class 0x0E. -/
def objEnergy (s : State) (r idx : Nat) : List Word :=
  let e := ((teamOf s r).getD {}).energy
  let d := getDie s (regionDie r)
  match idx with
  | 0 => [BitVec.ofNat 64 e.spent, quotaWord e] ++ (List.range 4).map (fun k => BitVec.ofNat 64 (d.acct.getD k 0))
  | 1 => (List.range 9).map (fun k => BitVec.ofNat 64 ((getRegion s r).ctrs.getD (8 * k) 0))
  | n => match ((getRegion s r).phases.getD ((n - 2) / 16) [])[(n - 2) % 16]? with
    | some p => if n < 66 then phaseWords s.clock p else []
    | none => []

/-- Class 0x0F. -/
def objMap (s : State) (die idx : Nat) : List Word :=
  match idx with
  | 0 => (List.range 4).map (lrmapWord s)
  | 1 => [BitVec.ofNat 64 ((getDie s die).corr.getD 0 0), BitVec.ofNat 64 ((getDie s die).corr.getD 1 0)]
  | 2 => [(getDie s die).fres]
  | _ => []

/-- Class 0x07: a slice, word by word. -/
def sliceWord (s : State) (r tile k : Nat) : Word := readWord s (tileKey s r tile (8 * k))

/-- The words of an object, slices aside. -/
def objWords (s : State) (cls die rwd idx : Nat) : List Word :=
  let r := dieRegion die rwd
  let i := r * 4 + idx % 4
  match cls with
  | 0x01 => if idx < 4 then objRegs s i else []
  | 0x02 => if idx < 4 then objSpecials s i else []
  | 0x03 => if idx < 4 then objFrame s i else []
  | 0x04 => if idx < 256 then objTile s r idx else []
  | 0x05 => objChan s idx
  | 0x06 => if idx < 256 then objLanding s r idx else []
  | 0x08 => objTether s die idx
  | 0x09 => objOstler s die rwd idx
  | 0x0A => objPort s die idx
  | 0x0B => objCarter s die rwd idx
  | 0x0C => objFaults s die idx
  | 0x0D => if idx < 4 then objLog s i else []
  | 0x0E => objEnergy s r idx
  | 0x0F => objMap s die idx
  | _ => []

/-- An aligned 8-byte read at a byte offset of the aperture (R48): beyond the object, and with EN = 0, it reads zero. -/
def readback (s : State) (host : Bool) (off : Nat) : Word :=
  let b := (if host then s.host.hp1 else s.host.hp0).rbsel
  let cls := bitsN b 56 7
  let die := bitsN b 51 5
  let rwd := bitsN b 49 2
  let idx := bitsN b 0 32
  if !bit b 63 then 0
  else if cls == 7 then (if decide (idx < 256) && decide (off < 131072) then sliceWord s (dieRegion die rwd) idx (off / 8) else 0)
  else (objWords s cls die rwd idx).getD (off / 8) 0

end Sys2Proof.Machine
end

