-- ==== Sys2Proof/Machine/Shake.lean ====
section
/-! DEFINITION. SHAKE256, which the spec names and does not define (R51, R53, R109, R257): FIPS 202 (log 7). -/

namespace Sys2Proof.Machine.Shake

/-- Rotation offsets by x + 5·y. -/
def offsets : List Nat :=
  [0, 1, 62, 28, 27, 36, 44, 6, 55, 20, 3, 10, 43, 25, 39, 41, 45, 15, 21, 8, 18, 2, 61, 56, 14]

def roundConsts : List Word :=
  [0x0000000000000001, 0x0000000000008082, 0x800000000000808A, 0x8000000080008000, 0x000000000000808B, 0x0000000080000001,
   0x8000000080008081, 0x8000000000008009, 0x000000000000008A, 0x0000000000000088, 0x0000000080008009, 0x000000008000000A]
  ++ [0x000000008000808B, 0x800000000000008B, 0x8000000000008089, 0x8000000000008003, 0x8000000000008002, 0x8000000000000080,
      0x000000000000800A, 0x800000008000000A, 0x8000000080008081, 0x8000000000008080, 0x0000000080000001, 0x8000000080008008]

/-- Lane x + 5·y of a state of 25 lanes. -/
def lane (a : List Word) (x y : Nat) : Word := a.getD (x % 5 + 5 * (y % 5)) 0

/-- One round of Keccak-f[1600]. -/
def round (a : List Word) (rc : Word) : List Word :=
  let c := (List.range 5).map (fun x => lane a x 0 ^^^ lane a x 1 ^^^ lane a x 2 ^^^ lane a x 3 ^^^ lane a x 4)
  let d := (List.range 5).map (fun x => c.getD ((x + 4) % 5) 0 ^^^ (c.getD ((x + 1) % 5) 0).rotateLeft 1)
  let b := (List.range 25).map (fun k =>
    let x := (k % 5 + 3 * (k / 5)) % 5
    let y := k % 5
    (lane a x y ^^^ d.getD x 0).rotateLeft (offsets.getD (x + 5 * y) 0))
  let e := (List.range 25).map (fun k => lane b (k % 5) (k / 5) ^^^ (~~~(lane b (k % 5 + 1) (k / 5)) &&& lane b (k % 5 + 2) (k / 5)))
  e.set 0 (e.getD 0 0 ^^^ rc)

def permute (a : List Word) : List Word := roundConsts.foldl round a

/-- Rate in bytes. -/
def rate : Nat := 136

/-- Message with its padding, a multiple of the rate. -/
def pad (m : List Byte) : List Byte :=
  let n := rate - m.length % rate
  if n = 1 then m ++ [0x9F] else m ++ [0x1F] ++ List.replicate (n - 2) 0 ++ [0x80]

/-- Absorb one block of 17 lanes. -/
def absorb (a : List Word) (blk : List Byte) : List Word :=
  permute ((List.range 25).map (fun k => a.getD k 0 ^^^ (if k < 17 then BitVec.ofNat 64 (ofBytes ((blk.drop (8 * k)).take 8)) else 0)))

def absorbAll : Nat → List Word → List Byte → List Word
  | 0, a, _ => a
  | n + 1, a, m => absorbAll n (absorb a (m.take rate)) (m.drop rate)

/-- The digest of n ≤ 136 bytes (R53, R109). -/
def shake256 (m : List Byte) (n : Nat) : List Byte :=
  let p := pad m
  ((absorbAll (p.length / rate) (List.replicate 25 0) p).flatMap (fun w => toBytes w 8)).take n

end Sys2Proof.Machine.Shake
end

