-- ==== Sys2Proof/Machine/Save.lean ====
section
/-! DEFINITION. Pre-emption of a team (R216–R220): CLOSE, quiescence, the save image (R109, R218; log 22), RESTORE, and the commands that
carry them out (R312, R314). -/

namespace Sys2Proof.Machine

/-! ### CLOSE -/

/-- One strand stops issue (R216): its replay queue is formed as if trapped, with TCAUSE 0x1A, once the requests it has sent let it (R209).
A strand that the firmware, the debugger or an error holds, and an IDLE one, stays as it is; so does one whose trap waits. -/
def closeStrand (s : State) (i : Nat) (team : Nat) : State :=
  let st := getStrand s i
  let out := st.run == .idle || st.run == .stopped || st.hold == some .firmware || st.hold == some .killed || st.hold == some .closed
    || st.traps.due.isSome
  if out then s
  else
    let x := abandonWait s i
    let d : Due := { cause := { code := 0x1A, tval := BitVec.ofNat 64 team }, tpc := st.pc, rpc := st.pc, ents := x.2 ++ st.traps.replay, dest := 3 }
    if st.live.isEmpty then closeNow x.1 i d else raiseLater x.1 i d

/-- Strands of a team. -/
def Team.strands (t : Team) : List Nat := t.regions.flatMap (fun r => (List.range 4).map (r * 4 + ·))

/-- The uncommitted tasks of a team are discarded and their indices returned, which counts as no attempt (R73). -/
def returnTask (s : State) (t : Team) (r : Nat) : State :=
  let z := r * 4
  match (getStrand s z).task with
  | some k =>
    if k.committed then s
    else
      let s := (List.range 4).foldl (fun s n => if n == 0 || (getStrand s (z + n)).inTask then leaveTask s (z + n) else s) s
      let s := updStrand s z (fun st => { st with task := none, wbuf := [], wown := {}, view := { st.view with snap := ownSnap st.view.stores } })
      updTeam s t.id (fun u => { u with card := u.card.map (fun c => returnTasks c t r k true) })
  | none => s

/-- CLOSE (R216, step 1): feeds, Carter starts and ingress are gated, strands stop; USER entries stay until the save (R81). -/
def doClose (s : State) (id : Nat) : State :=
  let t := getTeam s id
  if t.leave.closed then s
  else
    let gids := t.strands.map (gidOf s)
    let users := s.teth.entries.filter (fun e => e.kind == 4 && gids.contains e.waiter)
    let s := t.strands.foldl (fun s i => closeStrand s i id) (t.regions.foldl (fun s r => returnTask s t r) s)
    let s := { s with teth := { s.teth with entries := s.teth.entries.filter (fun (e : Teth) => !(users.any (fun (u : Teth) => u.waiter == e.waiter))) ++ users } }
    updTeam s id (fun t => { t with leave := { t.leave with closed := true } })

/-- A team enters SAVING (R59, R216), with the limit for its quiescence in clocks; the firmware is told (R204). -/
def beginSaving (s : State) (id limit : Nat) (thermal : Bool) : State :=
  let s := updTeam s id (fun t => { t with state := .saving, leave := { began := s.clock, limit := limit, thermal := thermal } })
  doClose (emit s (.event "PREEMPT" [BitVec.ofNat 64 id])) id

/-! ### Quiescence (R216, R217) -/

/-- A copy that holds nothing back: none, or suspended or parked with every line acknowledged. -/
def carterQuiet (hard : Bool) (k : Carter) : Bool :=
  match k.cur with
  | none => true
  | some x => x.flying.isEmpty && x.refused.isEmpty && !x.adding && (x.susp || (x.park.isSome && (hard || !Tp.atomic x.tmpl)))

/-- A load or a SWITCH that has begun and not retired: it runs to retirement (R216). -/
def loadRuns (s : State) (t : Team) : Bool :=
  t.regions.any (fun r => (getRegion s r).cmds.queues.vals.any (fun l => l.any (·.loading)))

/-- What both paths wait for: no firing in progress, nothing on its way in routers, every acknowledgement in, every load and SWITCH
retired, every strand stopped. -/
def drained (s : State) (t : Team) (hard : Bool) : Bool :=
  t.flying == 0
  && t.strands.all (fun i => (getStrand s i).c0 == 0 && (getStrand s i).traps.due.isNone)
  && t.regions.all (fun r => (getRegion s r).carters.vals.all (carterQuiet hard))
  && s.tiles.cells.all (fun c => !t.regions.contains (c.1 / 256) || (decide (c.2.busy ≤ s.clock) && c.2.fir.isNone))
  && s.chans.vals.all (fun c => c.team != t.id || c.branches.all (fun b => b.flight.isEmpty && b.sent == 0))
  && !contribFlying s t.id && !loadRuns s t

/-- The condition of the quiescence tree. -/
def quiescent (s : State) (t : Team) : Bool :=
  drained s t false
  && s.chans.vals.all (fun c => c.team != t.id || c.branches.all (fun b => b.buf.isEmpty))
  && s.tiles.cells.all (fun c => !t.regions.contains (c.1 / 256) || c.2.reqs.isEmpty)
  && t.regions.all (fun r => (getRegion s r).ports.vals.all (fun p => p.part.isEmpty))
  && s.trees.vals.all (fun x => x.team != t.id || x.nodes.all (fun n => n.held.isEmpty))

/-! ### Parked units (R162, R163) -/

/-- The entry of a parked unit, as its fault was posted (R162). -/
def parkEntry (t : Team) (p : Park) (src r tile unit id : Nat) : FEntry :=
  faultEntry p.va p.cause.toNat src p.kind.toNat t.atag r tile unit p.mal p.lvl p.num id

/-- The parked units of a team, each with its die and its fault's entry. -/
def parkedUnits (s : State) (t : Team) : List (Nat × FEntry) :=
  t.regions.flatMap (fun r =>
    let g := getRegion s r
    (g.ports.cells.filterMap (fun c => c.2.park.map (fun p => (regionDie r, parkEntry t p 3 r 0 c.1 0))))
    ++ g.carters.cells.filterMap (fun c => c.2.cur.bind (fun x => x.park.map (fun p => (regionDie r, parkEntry t p 2 r 0 c.1 (bitsN x.start.word 0 16))))))
  ++ s.tiles.cells.flatMap (fun k => if !t.regions.contains (k.1 / 256) then [] else
    k.2.ctxs.cells.flatMap (fun c => c.2.actors.cells.filterMap (fun a => a.2.park.map (fun p =>
      (regionDie (k.1 / 256), parkEntry t p 1 (k.1 / 256) (k.1 % 256) (c.1 * 64 + a.1 * 16) 0)))))
  ++ s.chans.cells.flatMap (fun c => if c.2.team != t.id then [] else
    c.2.indexed.filterMap (fun b => b.2.park.map (fun p =>
      let x := consTile s c.2 b.2
      (regionDie x.1, parkEntry t p 4 x.1 x.2 b.1 c.1))))

/-- Parked units post their faults again (R163, R219). -/
def repostFaults (s : State) (t : Team) : State := (parkedUnits s t).foldl (fun s e => postFault s e.1 e.2) s

/-! ### The image (R109, R218) -/

/-- An object of an image: class, region, index. -/
structure SObj where
  cls : Nat := 0
  reg : Nat := 0
  idx : Nat := 0
  deriving DecidableEq, Repr

/-- A token with its sideband as words. -/
def tokWords (t : Line × BitVec 24) : List Word := splitWords t.1 8 ++ [t.2.setWidth 64]

/-- What stands in a region outside the landing buffers that the layout of class 0x06 shows (R217; log 22): the buffers of branches whose
consumer is a port or another module, the sidebands of the tokens in extension rings, the parts of records in assembly at ports. -/
def landedElse (s : State) (t : Team) (r : Nat) : List Word :=
  (s.chans.vals.filter (fun c => c.team == t.id && c.preg == r)).flatMap (fun c => c.branches.flatMap (fun b =>
    if b.kind != 0 || b.remote then (landedToks b).flatMap tokWords
    else b.buf.flatMap (fun i => (i.toks.zip i.slots).filterMap (fun u => if u.2.isSome then some (u.1.side.setWidth 64) else none))))
  ++ (getRegion s r).ports.vals.flatMap (fun p => p.part.flatMap tokWords)

/-- What a body holds beyond the layout of its readback class (R218; log 22): pending causes; the replay queue; what the hard path finds
outside the landing buffers; queued commands with their numbers; the numbers of the Carter's starts; the tasks that are committed. -/
def moreWords (s : State) (t : Team) (o : SObj) : List Word :=
  let st := getStrand s (o.reg * 4 + o.idx % 4)
  match o.cls with
  | 0x02 => (st.traps.pend ++ (st.traps.fw.map (·.1)).toList).flatMap (fun c => [c.code.setWidth 64, c.tval, BitVec.ofNat 64 c.tseq, c.asite])
  | 0x0D => if o.idx != 0 then [] else (getRegion s o.reg).cmds.queues.cells.flatMap (fun q => q.2.flatMap (fun c =>
      [BitVec.ofNat 64 (q.1 * 2 ^ 52 + c.strand.toNat * 2 ^ 49 + (if c.begun then 2 ^ 48 else 0) + c.num)] ++ splitWords c.word 2))
  | 0x0B => if 1024 ≤ o.idx then [] else
      let k := getCarter s o.reg (o.idx % 8)
      ((k.cur.map (·.start)).toList ++ k.queue).map (fun q => BitVec.ofNat 64 (q.strand.toNat * 2 ^ 48 + q.num))
  | 0x03 => st.traps.replay.flatMap Entry.words
  | 0x06 => if o.idx != 0 then [] else landedElse s t o.reg
  | 0x09 => t.regions.flatMap (fun r => match (getStrand s (r * 4)).task with
      | some k => [BitVec.ofNat 64 (r * 2 ^ 48 + k.attempt * 2 ^ 32 + k.index), BitVec.ofNat 64 k.rest]
      | none => [])
  | _ => []

/-- The words of a body: the USER entries and the parked units of the team stand by their place in its lists. -/
def bodyWords (s : State) (t : Team) (o : SObj) : List Word :=
  match o.cls with
  | 0x08 => ((((s.saves.getD t.id {}).users)[o.idx]?).map tethWords).getD []
  | 0x0C => (((parkedUnits s t)[o.idx]?).map (fun e => [e.2.w0, e.2.w1, e.2.w2, e.2.w3])).getD []
  | _ => objWords s o.cls (regionDie o.reg) (regionWithin o.reg) o.idx ++ moreWords s t o

def SObj.len (s : State) (t : Team) (o : SObj) : Nat := if o.cls == 7 then 131072 else 8 * (bodyWords s t o).length

/-- The objects of a team's image, in the order of the directory. -/
def saveObjects (s : State) (t : Team) (hard : Bool) : List SObj :=
  let r0 := t.y * 16 + t.x
  t.regions.flatMap (fun r =>
    ([1, 2, 3, 13].flatMap (fun c => (List.range 4).map (fun k => SObj.mk c r k)))
    ++ (List.range 256).map (SObj.mk 4 r) ++ (if hard then (List.range 256).map (SObj.mk 6 r) else [])
    ++ (List.range 256).map (SObj.mk 7 r)
    ++ (List.range 8).map (fun c => SObj.mk 11 r (regionWithin r * 8 + c)))
  ++ (s.chans.cells.filter (fun c => c.2.team == t.id)).map (fun c => SObj.mk 5 r0 c.1)
  ++ t.tmpl.cells.map (fun c => SObj.mk 11 r0 (1024 + c.1))
  ++ [SObj.mk 9 r0 4096]
  ++ (List.range (s.saves.getD t.id {}).users.length).map (SObj.mk 8 r0)
  ++ (List.range (parkedUnits s t).length).map (SObj.mk 12 r0)

/-- The objects with the offsets of their bodies. -/
def layObjects (s : State) (t : Team) : List SObj → Nat → List (SObj × Nat × Nat)
  | [], _ => []
  | o :: os, off => let n := o.len s t; (o, off, n) :: layObjects s t os (off + n)

/-- A directory entry (log 22). -/
def dirWords (e : SObj × Nat × Nat) : List Word :=
  [BitVec.ofNat 64 (e.1.cls * 2 ^ 56 + regionDie e.1.reg * 2 ^ 51 + regionWithin e.1.reg * 2 ^ 49 + e.1.idx), BitVec.ofNat 64 (e.2.1 * 2 ^ 24 + e.2.2)]

/-- Home keys of the 64-byte lines of an area. -/
def areaKeys (s : State) (c : Space) (area : Word) (len : Nat) (k : Acc) : Option (List Nat) :=
  (List.range ((len + 63) / 64)).mapM (fun j => match translateNow s c (area + BitVec.ofNat 64 (64 * j)) k with
    | .ok key _ => some key
    | _ => none)

/-- The lines of an area that an image takes count in their accounting class (R156). -/
def accountArea (s : State) (c : Space) (area : Word) (len : Nat) (k : Acc) : State :=
  (List.range ((len + 63) / 64)).foldl (fun s j => match translateNow s c (area + BitVec.ofNat 64 (64 * j)) k with
    | .ok key pte => account s key pte (min 64 (len - 64 * j))
    | _ => s) s

def areaKey (keys : List Nat) (off : Nat) : Nat := keys.getD (off / 64) 0 + off % 64

def putBytes (s : State) (keys : List Nat) (off : Nat) : List Byte → State
  | [] => s
  | b :: bs => putBytes (writeBytes s (areaKey keys off) [b]) keys (off + 1) bs

def getBytes (s : State) (keys : List Nat) (off : Nat) : Nat → List Byte
  | 0 => []
  | n + 1 => readByte s (areaKey keys off) :: getBytes s keys (off + 1) n

/-- A slice goes to the image, errors included (R215). -/
def sliceOut (s : State) (keys : List Nat) (off src : Nat) : State :=
  let bad := s.poison.filter (fun k => decide (src ≤ k) && decide (k < src + 131072))
  let s1 := putBytes s keys off (readBytes s src 131072)
  { s1 with poison := s1.poison ++ bad.map (fun k => areaKey keys (off + (k - src))) }

/-- A slice comes back from the image. -/
def sliceIn (s : State) (keys : List Nat) (off dst : Nat) : State :=
  let bad := (List.range 16384).filter (fun j => s.poison.contains (areaKey keys (off + 8 * j)))
  let s1 := writeBytes s dst (getBytes s keys off 131072)
  { s1 with poison := s1.poison ++ bad.map (fun j => dst + 8 * j) }

/-- Write one section body. -/
def putObject (s : State) (t : Team) (keys : List Nat) (e : SObj × Nat × Nat) : State :=
  if e.1.cls == 7 then sliceOut s keys e.2.1 (tileKey s e.1.reg e.1.idx 0)
  else putBytes s keys e.2.1 (wordsBytes (bodyWords s t e.1))

/-- The header (R218; log 22): magic, length, TEAMID, HARD with tag and shape, digest. -/
def headerWords (t : Team) (len : Nat) (hard : Bool) (digest : List Byte) : List Word :=
  [Config.saveMagic, BitVec.ofNat 64 len, BitVec.ofNat 64 t.id,
   BitVec.ofNat 64 ((if hard then 1 else 0) + t.atag * 2 ^ 16 + t.w * 2 ^ 32 + t.h * 2 ^ 40 + t.x * 2 ^ 48 + t.y * 2 ^ 56)]
  ++ bytesWords digest 4

/-- A router node with its timer as the time that remains, and back (R217). -/
def Tree.shift (t : Tree) (f : Nat → Nat) : Tree := { t with nodes := t.nodes.map (fun n => { n with due := n.due.map f }) }

/-- What the image holds, decoded. -/
def keptState (s : State) (t : Team) (digest : List Byte) : Saved :=
  let mine (r : Nat) : Bool := t.regions.contains r
  { digest := digest
    strands := s.strands.cells.filter (fun c => mine (c.1 / 4))
    regions := s.regions.cells.filter (fun c => mine c.1)
    tiles := s.tiles.cells.filter (fun c => mine (c.1 / 256))
    chans := s.chans.cells.filter (fun c => c.2.team == t.id)
    trees := (s.trees.cells.filter (fun c => c.2.team == t.id)).map (fun c => (c.1, c.2.shift (fun d => d - s.clock)))
    users := (s.saves.getD t.id {}).users }

/-- Fault-queue entries of a team go (R163). -/
def dropTeamFaults (s : State) (t : Team) : State :=
  let keep (l : List FEntry) : List FEntry := l.filter (fun e => !(bitsN e.w1 39 12 == t.atag && t.regions.contains (bitsN e.w1 32 7)))
  let s := { s with trans := { s.trans with fq := s.trans.fq.mapVals (fun _ l => keep l), fqWait := s.trans.fqWait.mapVals (fun _ l => keep l) } }
  (List.range 32).foldl refillFaults s

/-- The regions of a saved team are freed; the ids of its channels and of its trees stay taken, and its nodes' timers stand still (R311). -/
def vacate (s : State) (t : Team) (kept : Saved) : State :=
  let s := freeRegions s t.regions
  { s with chans := ⟨s.chans.cells.filter (fun c => c.2.team != t.id) ++ kept.chans.map (fun c => (c.1, { c.2 with live := false, branches := [] }))⟩
           trees := s.trees.mapVals (fun _ x => if x.team != t.id then x else { x with nodes := x.nodes.map (fun n => { n with due := none }) }) }

/-- The USER entries of a team's strands, which its image takes (R81, R218). -/
def noteUsers (s : State) (t : Team) : State :=
  let gids := t.strands.map (gidOf s)
  { s with saves := s.saves.put t.id { s.saves.getD t.id {} with users := s.teth.entries.filter (fun e => e.kind == 4 && gids.contains e.waiter) } }

/-- SAVE (R216, step 3; R218): the body, then the header; the team is SAVED and its regions are freed. None: the area cannot be
written. -/
def doSave (s : State) (id : Nat) (c : Space) (area : Word) : Option State :=
  let t := getTeam s id
  let s := noteUsers (t.strands.foldl (fun s i => release s i 4) s) t
  let objs := saveObjects s t t.leave.hard
  let laid := layObjects s t objs (64 + 16 * objs.length)
  let len := 64 + 16 * objs.length + (laid.map (fun e => e.2.2)).sum
  match areaKeys s c area len .write with
  | none => none
  | some keys =>
    let s1 := putBytes (accountArea s c area len .write) keys 64 (wordsBytes (laid.flatMap dirWords))
    let s1 := laid.foldl (fun s e => putObject s t keys e) s1
    let digest := Shake.shake256 (getBytes s1 keys 64 (len - 64)) 32
    let s1 := putBytes s1 keys 0 (wordsBytes (headerWords t len t.leave.hard digest))
    let kept := keptState s t digest
    let s1 := vacate (dropTeamFaults s1 t) t kept
    let s1 := { s1 with saves := s1.saves.put id kept }
    let leave : Leave := { area := area, len := len, space := c, saved := true, hard := t.leave.hard, thermal := t.leave.thermal }
    some (updTeam s1 id (fun t => { t with state := .saved, since := s.clock, leave := leave }))

/-- Where the Ostler's own saves go (R108; log 22): a thermal save into the area of TSAVEAREA, another one from 1 TiB on, one image
after another. -/
def nextArea (s : State) (thermal : Bool) : Word :=
  let base := if !thermal || s.ost.tsave = 0 then 2 ^ 40 else (s.ost.tsave.toNat + 63) / 64 * 64
  BitVec.ofNat 64 (s.teams.vals.foldl (fun a t => if t.state == .saved && t.leave.thermal == thermal then max a ((t.leave.area.toNat + t.leave.len + 63) / 64 * 64) else a) base)

/-! ### RESTORE (R219) -/

/-- USER entries are inserted again (R81, R89, R219): each is visible once its own walk has ended (R82). -/
def reinsert (s : State) (us : List Teth) : State :=
  us.foldl (fun s e =>
    if decide (512 ≤ (s.teth.entries.filter (fun f => tethHome f.obj == tethHome e.obj)).length) then
      { s with teth := { s.teth with tovf := min (s.teth.tovf + 1) (2 ^ 32 - 1) } }
    else
      let walked := e.owner.isSome
      { s with teth := { s.teth with entries := s.teth.entries ++ [{ e with seen := !walked }]
                                     walks := if walked then s.teth.walks ++ [e.waiter] else s.teth.walks
                                     dirty := s.teth.dirty ++ ownersOf s [e] } }) s

/-- Whether the image in memory is whole (R109): its magic is right, so its header is not zero, and its digest is its body's. -/
def imageWhole (s : State) (keys : List Nat) (len : Nat) : Bool :=
  getBytes s keys 0 8 == wordsBytes [Config.saveMagic] && Shake.shake256 (getBytes s keys 64 (len - 64)) 32 == getBytes s keys 32 32

/-- The length that the header of an image names (R218). -/
def imageLen (s : State) (c : Space) (area : Word) : Option Nat := (areaKeys s c area 64 .read).map (fun ks => ofBytes (getBytes s ks 8 8))

/-- A region as restored: what the team had, with the physical region's own power, map, turn, pool and counters. -/
def restoreRegion (old new : Region) : Region :=
  { new with up := old.up, issued := old.issued, lr := old.lr, hot := old.hot, turn := old.turn, ctrs := old.ctrs, pool := { old.pool with last := new.pool.last } }

/-- The slices come back from the image. -/
def restoreSlices (s : State) (keys : List Nat) (len : Nat) (laid : List (SObj × Nat × Nat)) : State :=
  laid.foldl (fun s e => if e.1.cls == 7 && decide (e.2.1 + 131072 ≤ len) then sliceIn s keys e.2.1 (tileKey s e.1.reg e.1.idx 0) else s) s

/-- The directory of an image. -/
def readDir (s : State) (keys : List Nat) (n : Nat) : List (SObj × Nat × Nat) :=
  (List.range n).map (fun k =>
    let w0 : Word := BitVec.ofNat 64 (ofBytes (getBytes s keys (64 + 16 * k) 8))
    let w1 : Word := BitVec.ofNat 64 (ofBytes (getBytes s keys (72 + 16 * k) 8))
    ({ cls := bitsN w0 56 7, reg := dieRegion (bitsN w0 51 5) (bitsN w0 49 2), idx := bitsN w0 0 32 }, bitsN w1 24 40, bitsN w1 0 24))

/-- A strand as it comes back: one that CLOSE stopped waits for START, as does one that the firmware has released meanwhile (R219). -/
def Strand.back (st : Strand) : Strand :=
  if st.run == .ready && (st.hold.isNone || st.hold == some .closed) then { st with hold := some .start } else st

/-- An actor that SPARSE_META or JOIN_MISMATCH has parked raises its cause again, unless it is still pending (R219, R355). -/
def reraiseParks (s : State) (t : Team) : State :=
  raiseParked { s with tiles := s.tiles.mapVals (fun k x => if !t.regions.contains (k / 256) then x else
    { x with ctxs := x.ctxs.mapVals (fun _ c => { c with actors := c.actors.mapVals (fun _ a => match a.trapped with
      | some cause => { a with owed := !((getStrand s (causeStrand s (k / 256) cause.tseq)).traps.pend.contains cause) }
      | none => a) }) }) }

/-- RESTORE (R219), steps 1 to 5: the team is LOADING (R59) until its tiles have their gaits; none when the image is refused (R109). -/
def doRestore (s : State) (id : Nat) (c : Space) (area : Word) (num : Option (Nat × Nat)) : Option State :=
  let t := getTeam s id
  let kept := s.saves.getD id {}
  match imageLen s c area with
  | none => none
  | some len =>
  match areaKeys s c area len .read with
  | none => none
  | some keys =>
  if !imageWhole s keys len then none
  else
    let s := accountArea s c area len .read
    let first : Word := BitVec.ofNat 64 (ofBytes (getBytes s keys 72 8))
    let n := (bitsN first 24 40 - 64) / 16
    let s1 := restoreSlices s keys len (readDir s keys n)
    let s1 := kept.strands.foldl (fun s c => setStrand s c.1 c.2.back) s1
    let s1 := kept.regions.foldl (fun s c => setRegion s c.1 (restoreRegion (getRegion s c.1) c.2)) s1
    let s1 := kept.tiles.foldl (fun s c =>
      let now := (s.tiles.getD c.1 {}).gait
      { s with tiles := s.tiles.put c.1 { c.2 with busy := s.clock, fir := none, gait := { now with req := c.2.gait.req } } }) s1
    let s1 := { s1 with chans := ⟨s1.chans.cells.filter (fun c => c.2.team != id) ++ kept.chans⟩
                        trees := kept.trees.foldl (fun m c => m.put c.1 (c.2.shift (· + s.clock))) s1.trees
                        saves := s1.saves.erase id }
    let back : Leave := { area := t.leave.area, len := t.leave.len, space := t.leave.space, saved := t.leave.saved, hard := t.leave.hard
                          thermal := t.leave.thermal, restoring := true, restoreNum := num }
    let s1 := updTeam s1 id (fun t => { t with state := .loading, leave := back })
    let s1 := reraiseParks (repostFaults s1 (getTeam s1 id)) t
    let s1 := reinsert s1 kept.users
    let s1 := { s1 with teth := { s1.teth with dirty := s1.teth.dirty ++ t.strands } }
    some (t.regions.foldl retargetRegion { s1 with ost := { s1.ost with holds := s1.ost.holds.filter (fun h => h.2.2.2.2 != id) } })

/-- A team that came back from its image and has not started is SAVED again, in the image that still stands (R74; log 38). -/
def unrestore (s : State) (id : Nat) : State :=
  let t := getTeam s id
  let s := noteUsers s t
  let kept := keptState s t (s.saves.getD id {}).digest
  let s := vacate (dropTeamFaults s t) t kept
  let s := { s with saves := s.saves.put id kept }
  updTeam s id (fun t => { t with state := .saved, since := s.clock, leave := { t.leave with restoring := false, restoreNum := none } })

/-- Arbitration starts again on every tile of the team in one clock, and the Reins count from it (R131, R150, R219). -/
def restartTiles (s : State) (t : Team) : State :=
  let s := { s with tiles := s.tiles.mapVals (fun k x => if t.regions.contains (k / 256) then
    { x with ctxs := x.ctxs.mapVals (fun _ c => if c.started then { c with startAt := some s.clock } else c) } else x) }
  t.regions.foldl (fun s r => updRegion s r (fun g => { g with startClock := s.clock, tick := s.clock })) s

/-- RESTORE (R219), steps 6 and 7, once every tile has its gait: the team is RUNNING and a RESTORE command retires. -/
def finishRestore (s : State) (id : Nat) : State :=
  let t := getTeam s id
  if t.state != .loading || !t.leave.restoring || !gaitsSettled s t then s
  else
    let s := updTeam (restartTiles s t) id (fun t => { t with state := .running, ranAt := s.clock, leave := {} })
    match t.leave.restoreNum with
    | some q => retireNumber s q.2 q.1
    | none => s

/-- A context whose image was refused is LOST (R109). -/
def reportLost (s : State) (id : Nat) : State :=
  emit (updTeam s id (fun t => { t with leave := { t.leave with lost := true } })) (.event "LOST" [BitVec.ofNat 64 id])

/-! ### Quiescence ends -/

/-- A SAVE command that waited is carried out (R312). -/
def saveWaiting (s : State) (id : Nat) (q : Nat × Nat × Word × Space) : State :=
  match doSave s id q.2.2.2 q.2.2.1 with
  | some s => retireNumber s q.2.1 q.1
  | none => cmdFail { s with cur := { reg := BitVec.ofNat 7 q.2.1, num := q.1 } } 19 0

/-- The tree has reported, or the hard path has run (R216, R217): every QUIESCE retires and a SAVE that waits is carried out; without
either the Ostler saves the team at once. -/
def settleQuiet (s : State) (id : Nat) : State :=
  let t := getTeam s id
  let ok := t.state == .saving && t.leave.closed && !t.leave.quiet && (quiescent s t || (t.leave.hard && drained s t true))
  if !ok then s
  else
    let s := updTeam s id (fun t => { t with leave := { t.leave with
      quiet := true, hard := t.leave.hard && !quiescent s t, quiesceNum := none, quiesceMore := [], saveDue := [] } })
    let s := t.leave.quiesceMore.foldl (fun s q => retireNumber s q.2 q.1) s
    match t.leave.quiesceNum, t.leave.saveDue with
    | some q, [] => retireNumber s q.2 q.1
    | n, _ :: _ => t.leave.saveDue.foldl (fun s q => saveWaiting s id q) (match n with | some q => retireNumber s q.2 q.1 | none => s)
    | none, [] => match doSave s id {} (nextArea s t.leave.thermal) with
      | some s => s
      | none => reportLost s id

/-- PREEMPT_QUIESCENCE (R216). -/
def execPreemptQuiescence (team : TeamId) (s : State) : Out' := runStep (fun s => settleQuiet s team.toNat) s

/-- PREEMPT_LIMIT_EXPIRE (R217): the hard path begins. -/
def execPreemptLimitExpire (team : TeamId) (s : State) : Out' :=
  runStep (fun s =>
    let t := getTeam s team.toNat
    if t.state == .saving && !t.leave.quiet && decide (t.leave.began + t.leave.limit ≤ s.clock) then
      settleQuiet (updTeam s t.id (fun t => { t with leave := { t.leave with hard := true } })) t.id
    else s) s

/-! ### The commands (R312) -/

/-- Check 19 unless the team is in the state required. -/
def withTeam (s : State) (team : Nat) (ok : Team → Bool) (cont : Team → State → State) : State :=
  match s.teams.find? team with
  | some t => if ok t then cont t s else cmdFail s 19 0
  | none => cmdFail s 19 0

/-- CLOSE (0x10). -/
def closeCmd (s : State) (team : Nat) (arg : Word) : State :=
  mustBeZero s arg.toNat 0 (fun s => withTeam s team (fun t => t.state == .saving) (fun t s => retireCur (doClose s t.id)))

/-- QUIESCE (0x11): the limit runs from now; a thermal save keeps its own (R108), and an earlier QUIESCE that is pending its end. -/
def quiesceCmd (s : State) (team : Nat) (arg : Word) : State :=
  mustBeZero s (bitsN arg 16 48) 16 (fun s => withTeam s team (fun t => t.state == .saving) (fun t s =>
    let lim := bitsN arg 0 16
    if t.leave.quiet then retireCur s
    else
      let num := (s.cur.num, s.cur.reg.toNat)
      let limit := if lim = 0 then s.ost.plimit else lim * 1000
      let soon := if t.leave.quiesceNum.isSome then min limit (t.leave.began + t.leave.limit - s.clock) else limit
      updTeam (doClose s t.id) t.id (fun t => { t with leave := { t.leave with
        quiesceNum := some num
        quiesceMore := t.leave.quiesceMore ++ t.leave.quiesceNum.toList
        began := if t.leave.thermal then t.leave.began else s.clock
        limit := if t.leave.thermal then t.leave.limit else soon } })))

/-- SAVE (0x12): before quiescence it waits for it (R216, R312). -/
def saveCmd (s : State) (team : Nat) (area : Word) : State :=
  mustBeZero s (bitsN area 0 6) 0 (fun s => withTeam s team (fun t => t.state == .saving) (fun t s =>
    let c := (myTeam s).spaceAt (myTeam s).svm s.cur.reg.toNat
    if !t.leave.quiet then updTeam s t.id (fun t => { t with leave := { t.leave with saveDue := t.leave.saveDue ++ [(s.cur.num, s.cur.reg.toNat, area, c)] } })
    else match doSave s t.id c area with
    | some s => retireCur s
    | none => cmdFail s 19 0))

/-- Whether the regions of a saved team are held for it and free of any other holder. -/
def regionsHeldFor (s : State) (t : Team) : Bool :=
  s.ost.holds.any (fun h => h == (t.x, t.y, t.w, t.h, t.id)) && t.regions.all (fun r => (teamOf s r).isNone)

/-- RESTORE (0x13): it retires when the team runs. -/
def restoreCmd (s : State) (team : Nat) (area : Word) : State :=
  mustBeZero s (bitsN area 0 6) 0 (fun s => withTeam s team (fun t => t.state == .saved && regionsHeldFor s t) (fun t s =>
    match doRestore s t.id ((myTeam s).spaceAt (myTeam s).svm s.cur.reg.toNat) area (some (s.cur.num, s.cur.reg.toNat)) with
    | some s => s
    | none => cmdFail (reportLost s t.id) 19 0))

def execClose (team : TeamId) (arg : Word) (s : State) : Out' := runStep (fun s => closeCmd s team.toNat arg) s
def execQuiesce (team : TeamId) (arg : Word) (s : State) : Out' := runStep (fun s => quiesceCmd s team.toNat arg) s
def execSave (team : TeamId) (area : Word) (s : State) : Out' := runStep (fun s => saveCmd s team.toNat area) s
def execRestore (team : TeamId) (area : Word) (s : State) : Out' := runStep (fun s => restoreCmd s team.toNat area) s

end Sys2Proof.Machine
end

