-- ==== Sys2Proof/Machine/Accept.lean ====
section
/-! DEFINITION. Accepting commands: CMD and CMDR (R107, R124, R238, R278, R314), and the ports that a strand reads and writes itself:
PORTRD and PORTWR (R279–R281). -/

namespace Sys2Proof.Machine

/-! ### CMD and CMDR -/

/-- The queue that a command's raw target names, or 33 for one that joins none (R238, R314). -/
def cmdQueue (w : BitVec 128) : Nat :=
  let op := bitsN w 120 8
  if decide (0x10 ≤ op) && decide (op ≤ 0x14) then 33 else if bitsN w 112 8 < 32 then bitsN w 112 8 else 32

/-- Commands marked SV (R238). -/
def cmdSv (op : Nat) : Bool := decide (0x10 ≤ op) && op != 0x14 && decide (op ≤ 0x15)

def queueOf (s : State) (r q : Nat) : List QCmd := (getRegion s r).cmds.queues.getD q []

/-- Put an accepted command into its queue; BARRIER enters every queue (R124). -/
def enterQueue (s : State) (r q : Nat) (c : QCmd) : State :=
  let put (m : Assoc (List QCmd)) (k : Nat) : Assoc (List QCmd) := m.put k (m.getD k [] ++ [c])
  updRegion s r (fun g => { g with cmds := { g.cmds with
    queues := if bitsN c.word 120 8 == 0x08 then (List.range 33).foldl put g.cmds.queues else put g.cmds.queues q } })

/-- A command that begins at acceptance runs as the one in progress (R314). -/
def runAtOnce (s : State) (i : Instr) : State :=
  match i with
  | .close t a => closeCmd s t.toNat a
  | .quiesce t a => quiesceCmd s t.toNat a
  | .save t a => saveCmd s t.toNat a
  | .restore t a => restoreCmd s t.toNat a
  | .resume act id u => resumeUnit s act.toNat id.toNat u
  | _ => retireCur s

/-- A command that the checks of R238 refuse: its number retires at once, and the instruction faults with it. -/
def refuseCommand (s : State) (q : Nat) (code : Byte) (tval : Word) : State :=
  raiseSync (retireNumber s s.cur.reg.toNat q) code tval false true q

/-- Offer a command (R278). `addr`: what CMD read, 0 for CMDR. -/
def offer (s : State) (d : Reg) (w : BitVec 128) (addr : Word) : State :=
  let r := s.cur.reg.toNat
  let s := release s (me s) 0
  let q := cmdQueue w
  if q != 33 && decide (16 ≤ (queueOf s r q).length) then result s d 0
  else
    let n := takeNumber s
    let s := n.2
    let op := bitsN w 120 8
    match decodeCmd w with
    | .error .illegalOp => refuseCommand s n.1 0x01 (BitVec.ofNat 64 op)
    | .error _ => refuseCommand s n.1 0x02 (bits w 64 64)
    | .ok i =>
      if cmdSv op && userMode s then refuseCommand s n.1 0x05 addr
      else
        let c : QCmd := { num := n.1, word := w, strand := s.cur.str }
        if q != 33 then advance (setG (enterQueue s r q c) d (BitVec.ofNat 64 n.1)) n.1
        else
          let s := setG s d (BitVec.ofNat 64 n.1)
          let s := updRegion s r (fun g => { g with cmds := { g.cmds with atOnce := g.cmds.atOnce ++ [{ c with begun := true }] } })
          let s := advance s n.1
          let back := s.cur
          let s := runAtOnce { s with cur := { back with num := n.1, queue := 33 } } i
          { s with cur := { s.cur with num := back.num, queue := back.queue } }

/-- The QUOTA trap at a command boundary (R107): the command is not executed, and one that was re-injected keeps its entry. -/
def quotaTrap (s : State) : State :=
  let s := updTeam s (myTeam s).id (fun t => { t with energy := { t.energy with due := t.energy.due - 1 } })
  raiseSync s 0x0D (BitVec.ofInt 64 (myTeam s).energy.remain) false s.cur.cap.isSome

/-- CMD (R278): 16 bytes at g[a]. -/
def execCmd (d a : Reg) (s : State) : Out' :=
  runStep (fun s =>
    let va := opA s a
    if 0 < (myTeam s).energy.due then quotaTrap s
    else withAligned s va 16 .read (fun key s =>
      let x := loadBytes s (me s) key 16
      offer x.2 d (BitVec.ofNat 128 (ofBytes x.1)) va)) s

/-- CMDR (R237, R278). -/
def execCmdr (d a b : Reg) (s : State) : Out' :=
  runStep (fun s => if 0 < (myTeam s).energy.due then quotaTrap s else offer s d (opA s a ++ opB s b) 0) s

/-! ### PORTRD and PORTWR -/

/-- Status word of PORTRD and PORTWR: 1 EMPTY, 2 REFUSED with a reason. -/
def portEmpty : Word := BitVec.ofNat 64 (2 ^ 62)
def portRefused (n : Nat) : Word := BitVec.ofNat 64 (2 ^ 63 + n)

/-- Whether a FEED (or DRAIN) is queued or running on a port (R279). -/
def portBusy (s : State) (r p : Nat) (drain : Bool) : Bool :=
  let op := if drain then 0x03 else 0x02
  (match (getPort s r p).run with | some j => j.drain == drain | none => false)
    || (queueOf s r p).any (fun c => bitsN c.word 120 8 == op)

/-- The gap that stands before a record or marker on its way to an empty buffer, where it will be buffered: a port that has been read empty gives it
ahead of what it is attached to, which has not landed (R141, R362; log 19). -/
def Branch.coming (b : Branch) (now : Nat) (h : BitVec 128) : Option Gap :=
  match b.flight with
  | f :: _ =>
    let i : Item := { toks := f.toks, mark := match f.toks with | t :: _ => Sb.isMark t.side | [] => true }
    if b.buf.isEmpty && b.spill.isEmpty && i.bears && decide (f.left ≤ now) && !b.st.eng && !b.full h && decide (0 < Br.engm b.word) then b.st.allGaps.head? else none
  | [] => none

/-- That gap is taken. -/
def takeComing (s : State) (ch br : Nat) : State :=
  stamp (updState s ch br (fun t => match t.allGaps.tail.reverse with
    | g :: rest => { t with closed := rest.reverse, gap := g }
    | [] => { t with closed := [], gap := {} })) ch br 1

/-- PORTRD of a stream port: one token, a gap as a GAP marker (R280); reading it acts as an acquire (R179). After another event of the clock at
its branch it finds nothing (R143). -/
def readPort (s : State) (d : Reg) (va : Word) (r p : Nat) (cb : Nat × Nat) : State :=
  let b := getBranch s cb.1 cb.2
  if !b.mayAct s.clock 1 then result s d portEmpty else
  let give (pay : Line) (side : BitVec 24) (take : State → State) : State :=
    withStores s va (toBytes pay 64) [] (fun s => result (acquire (take s) (me s)) d (side.setWidth 64)) 1
  match b.seen s.clock with
  | .nothing => (match b.coming s.clock (getChan s cb.1).head with
    | some g => let t := gapTok g; give t.pay t.side (fun s => takeComing s cb.1 cb.2)
    | none => result s d portEmpty)
  | .gap g => let t := gapTok g; give t.pay t.side (fun s => popGap s cb.1 cb.2 none)
  | .mark t => give t.pay t.side (fun s => popItem s cb.1 cb.2)
  | .record i =>
    let t : Tok := i.toks.getD (getPort s r p).place {}
    give t.pay t.side (fun s => takePortTok s r p cb i)

/-- Take one entry of an ingress port's ring (R41, R280): none while it is empty. -/
def readRing (s : State) (p : Nat) : Option (Line × BitVec 24 × State) :=
  let d := (getIPort s p).desc
  match portSpace s d with
  | none => none
  | some c => match counterKeys s c d .read, counterKeys s c d .write with
    | some k, some kw =>
      let made := readWord s k.1
      let used := readWord s k.2
      if (made - used).toInt ≤ 0 then none
      else match slotKeys s c d (used.toNat % Pd.slots d) .read with
        | some sl => some (BitVec.ofNat 512 (ofBytes (readBytes s sl.1 64)), (readWord s sl.2).setWidth 24, writeWord (ringTaken s c d used.toNat) kw.2 (used + 1))
        | none => none
    | _, _ => none

/-- PORTRD of an ingress port: an entry, or a QUEUE wait (R79, R280). -/
def readIngress (s : State) (d : Reg) (va : Word) (p : Nat) : State :=
  match readRing s p with
  | some x =>
    let s' := acquire (release s (me s) 4) (me s)
    withStores s' va (toBytes x.1 64) [] (fun s => match readRing (release s (me s) 4) p with
      | some y => result y.2.2 d (y.2.1.setWidth 64)
      | none => s) 1
  | none => tetheredWait s 2 (portObj s p) none (.queue p) d (BitVec.ofNat 64 (2 ^ 31 + p)) id

/-- PORTRD (R279, R280). -/
def execPortrd (d a b : Reg) (s : State) : Out' :=
  runStep (fun s =>
    let va := opA s a
    let v := opB s b
    let r := s.cur.reg.toNat
    let p := bitsN v 0 16
    if va.toNat % 64 != 0 then trapMisalign s va
    else if bitsN v 16 15 != 0 || bitsN v 32 8 != 0 then result s d (portRefused 1)
    else if bit v 31 then
      let ip := getIPort s p
      if Pd.mode ip.desc != 3 || Pd.atag ip.desc != (myTeam s).atag then result s d (portRefused 4) else readIngress s d va p
    else if decide (31 < p) then result s d (portRefused 1)
    else match inPort s r p with
      | none => result s d (portRefused 2)
      | some cb => if portBusy s r p true then result s d (portRefused 3) else readPort s d va r p cb) s

/-- Whether a sideband may follow at the port's place in its record (R230, R279): markers stand alone, and every token of a record has
the weight, C and N of the first, and a SCALE token stands first. -/
def sidePlace (v : BitVec 24) (pay : Line) (prl : Nat) (part : List (Line × BitVec 24)) : Bool :=
  let same := match part with | (_, f) :: _ => bitsN v 0 18 == bitsN f 0 18 | [] => true
  !Sb.bad v pay && Sb.kind v != 3 && (Sb.kind v != 1 || part.isEmpty) &&
    (if Sb.isMark v then part.isEmpty else Sb.h v == part.isEmpty && Sb.t v == decide (part.length + 1 = prl) && same)

/-- PORTWR (R279, R281). -/
def execPortwr (d a b : Reg) (s : State) : Out' :=
  runStep (fun s =>
    let va := opA s a
    let v := opB s b
    let r := s.cur.reg.toNat
    let p := bitsN v 0 16
    if va.toNat % 64 != 0 then trapMisalign s va
    else if bitsN v 16 15 != 0 || bitsN v 32 8 != 0 then result s d (portRefused 1)
    else if bit v 31 then result s d (portRefused 4)
    else if decide (31 < p) then result s d (portRefused 1)
    else match outPort s r p with
      | none => result s d (portRefused 2)
      | some ch =>
        if portBusy s r p false then result s d (portRefused 3)
        else withBlocks s va [] (fun bs s =>
          let pay : Line := BitVec.ofNat 512 (ofBytes bs)
          let side : BitVec 24 := bits v 40 24
          let prl := Head.prl (getChan s ch).head
          if !sidePlace side pay prl (getPort s r p).part then result s d (portRefused 5)
          else if Sb.isMark side then
            let s := if bitsN pay 0 4 == 1 then bump s r 8 1 else s
            result (emitRecord s ch [⟨pay, side⟩]) d 0
          else result (portEmit s r p ch ⟨pay, side⟩) d 0) 1) s

/-- PORTRD_WAKE (R79, R280): PRODUCED has advanced; the waiting PORTRD takes its entry. -/
def execPortrdWake (r : RegionId) (t : StrandNo) (s : State) : Out' :=
  runStep (fun s =>
    let i := sid r t
    match (getStrand s i).wait with
    | some w => match w.on with
      | .queue p =>
        if (readRing s p).isNone then s
        else
          let back := s.cur
          let s := dropWaitEntry s (gidOf s i)
          let s := updStrand s i (fun st => { st with wait := none, run := .ready })
          let s := readIngress { s with cur := { reg := r, str := t, pc := w.pc, insn := w.insn, cap := some (w.opa, w.opb) } } (fieldD w.insn) w.opa p
          { s with cur := back }
      | _ => s
    | none => s) s

end Sys2Proof.Machine
end

