-- ==== Sys2Proof/Machine/Ostler.lean ====
section
/-! DEFINITION. The Ostler (R59–R67): effective priorities, placement, pre-emption, selection; loading a team and the Groom (R47, R67);
retirement (R69), KILL (R222, R223), hitches (R74). -/

namespace Sys2Proof.Machine

/-! ### Priorities and heads (R60, R61) -/

/-- Clocks of 10 ms of waiting, and of the 1 ms guard (R61, R64). -/
def agingClocks : Nat := 10000000
def guardClocks : Nat := 1000000

/-- Effective priority of a team (R61). -/
def effPrio (s : State) (t : Team) : Nat :=
  match t.state with
  | .queued | .saved => if t.prio == 7 then 7 else min 6 (t.prio + (s.clock - t.since) / agingClocks)
  | _ => t.strands.foldl (fun p i => max p (getStrand s i).spr.eprio.toNat) t.prio

/-- Queues in (die, port) order. -/
def insertKey (k : Nat) : List Nat → List Nat
  | [] => [k]
  | x :: xs => if k ≤ x then k :: x :: xs else x :: insertKey k xs
def sortKeys (l : List Nat) : List Nat := l.foldr insertKey []

def unqueue (s : State) (id : Nat) : State :=
  { s with ost := { s.ost with queues := s.ost.queues.mapVals (fun _ l => l.filter (· != id)) } }

/-! ### Placement (R63) -/

/-- A rectangle of regions: x, y, w, h. -/
abbrev RRect := Nat × Nat × Nat × Nat

def RRect.regions (r : RRect) : List Nat := rectRegions r.1 r.2.1 r.2.2.1 r.2.2.2

def farrierHolds (s : State) (r : Nat) : Bool := match (getDie s (regionDie r)).farrier with | some f => f.region.toNat == r | none => false

/-- Kept by the Ostler for some head, `but` aside. -/
def keptFor (s : State) (r but : Nat) : Bool :=
  s.ost.holds.any (fun h => h.2.2.2.2 != but && (rectRegions h.1 h.2.1 h.2.2.1 h.2.2.2.1).contains r)

/-- Whether a team may take a region now. -/
def regionFree (s : State) (id r : Nat) : Bool :=
  (teamOf s r).isNone && !farrierHolds s r && !keptFor s r id && !(getRegion s r).hot

def rectFree (s : State) (id : Nat) (q : RRect) : Bool := q.regions.all (regionFree s id)

/-- A candidate has no OUT region, and none in test (R63, R269). -/
def candidate (s : State) (id : Nat) (q : RRect) : Bool := rectFree s id q && q.regions.all (fun r => decide ((getRegion s r).lr.toNat < 2))

/-- Held or OUT, for the level of a candidate. -/
def taken (s : State) (id r : Nat) : Bool := !regionFree s id r || (getRegion s r).lr == 2

/-- The parent of a block. -/
def parentRect (q : RRect) : RRect :=
  let (x, y, w, h) := q
  if decide (w < 16) && (decide (w ≤ h) || h == 8) then (x - x % (2 * w), y, 2 * w, h) else (x, y - y % (2 * h), w, 2 * h)

/-- Parent steps to the first ancestor with a held or OUT region; 99 stands for ∞. -/
def levelOf (s : State) (id : Nat) : Nat → Nat → RRect → Nat
  | 0, _, _ => 99
  | fuel + 1, n, q =>
    if q == (0, 0, 16, 8) then 99
    else
      let p := parentRect q
      if p.regions.any (taken s id) then n + 1 else levelOf s id fuel (n + 1) p

/-- Aligned rectangles of a shape by region id of their origin. -/
def aligned (w h : Nat) : List RRect :=
  (List.range (8 / h)).flatMap (fun j => (List.range (16 / w)).map (fun i => (i * w, j * h, w, h)))

/-- The least of a list by a measure, the earliest on ties. -/
def leastBy {α : Type} (f : α → Nat) : List α → Option α
  | [] => none
  | x :: xs => match leastBy f xs with
    | none => some x
    | some y => if f x ≤ f y then some x else some y

/-- The rectangle that R63 chooses. -/
def choosePlace (s : State) (t : Team) : Option RRect :=
  leastBy (levelOf s t.id 8 0) ((aligned t.w t.h).filter (candidate s t.id))

/-- The lowest free accounting tag (R28). -/
def freeTag (s : State) : Option Nat :=
  ((List.range 4095).map (· + 1)).find? (fun k => !s.ost.usedTags.contains k && !s.ost.withheld.contains k)

def tagReady (s : State) (t : Team) : Bool := t.svm || (freeTag s).isSome

/-- A team takes a rectangle and is LOADING (R28, R59). -/
def takeRect (s : State) (id : Nat) (q : RRect) : State :=
  let t := getTeam s id
  let tag := if t.svm then 0 else (freeTag s).getD 0
  let s := unqueue s id
  let s := { s with ost := { s.ost with usedTags := if t.svm then s.ost.usedTags else tag :: s.ost.usedTags
                                        holds := s.ost.holds.filter (fun h => h.2.2.2.2 != id) } }
  updTeam s id (fun t => { t with state := .loading, x := q.1, y := q.2.1, atag := tag })

/-- Place (R28, R63). -/
def place (s : State) (t : Team) : Option State :=
  if !tagReady s t then none else (choosePlace s t).map (takeRect s t.id)

/-! ### Pre-emption (R64) -/

/-- A hitch whose gate is pending. -/
def gatePending (s : State) (t : Team) : Bool :=
  match t.hitch with
  | some h => (match s.ost.hitches.find? h with | some x => x.t.isSome && !x.startedAt | none => false)
  | none => false

/-- An eligible victim. -/
def eligible (s : State) (p : Nat) (noGuard : Bool) (v : Team) : Bool :=
  v.state == .running && decide (effPrio s v < p) && (noGuard || p == 7 || decide (v.ranAt + guardClocks ≤ s.clock)) && !gatePending s v

/-- What stands in the way at a region: nothing, a team, the Farrier, or something that bars the rectangle. -/
inductive Bar where
  | open' | team (id : Nat) | farrier | shut
  deriving DecidableEq, Repr

/-- What stands at a region for a head of effective priority p. DESIGN CHOICE (log 49): the Farrier counts as a team of priority 5 here
too, so only a head above 5 takes its region. -/
def barAt (s : State) (id p : Nat) (noGuard : Bool) (r : Nat) : Bar :=
  if (getRegion s r).lr == 2 || (getRegion s r).hot || keptFor s r id then .shut
  else match teamOf s r with
    | some v => if eligible s p noGuard v then .team v.id else .shut
    | none => if farrierHolds s r then (if 5 < p then .farrier else .shut) else .open'

/-- Victims of a rectangle: teams, and regions of the Farrier; none when it is not eligible. -/
def victimsOf (s : State) (id p : Nat) (noGuard : Bool) (q : RRect) : Option (List Nat × List Nat) :=
  let bs := q.regions.map (fun r => (r, barAt s id p noGuard r))
  if bs.any (fun b => b.2 == .shut) then none
  else some ((bs.filterMap (fun b => match b.2 with | .team v => some v | _ => none)).eraseDups,
             bs.filterMap (fun b => match b.2 with | .farrier => some b.1 | _ => none))

def victimCost (s : State) (v : List Nat × List Nat) : Nat := (v.1.map (fun i => (getTeam s i).w * (getTeam s i).h)).sum + v.2.length

def savedCount (s : State) : Nat := (s.teams.vals.filter (fun t => t.state == .saved || t.state == .saving)).length

/-- Tell the other members of a hitch (R74). -/
def hitchSay (s : State) (h : Nat) (msg : String) (v : Word) : State :=
  ((s.ost.hitches.getD h {}).members.filter (· != modN s)).foldl (fun s m =>
    emit s (.event msg [BitVec.ofNat 64 h, BitVec.ofNat 64 m, v])) s

def updHitch (s : State) (h : Nat) (f : Hitch → Hitch) : State :=
  { s with ost := { s.ost with hitches := s.ost.hitches.put h (f (s.ost.hitches.getD h {})) } }

/-- A hitch without a gate: its next start needs a new one (R74). -/
def clearGate (s : State) (h : Nat) : State := updHitch s h (fun x => { members := x.members, lead := x.lead })

/-- A member of a hitch that is pre-empted tells the others, and its restart needs a new gate (R74). -/
def pullHitch (s : State) (t : Team) : State :=
  match t.hitch with
  | some h => clearGate (hitchSay s h "HITCH_PREEMPT" 0) h
  | none => s

/-- One victim goes to SAVING (R64, R74, R216). -/
def preemptTeam (s : State) (id : Nat) : State := pullHitch (beginSaving s id s.ost.plimit false) (getTeam s id)

/-- A pre-emption that no head asked for, within the limit on SAVED teams (R59, R74): with 256 of them the member goes on RUNNING (DESIGN CHOICE: R74
does not say; log 38). -/
def preemptForced (s : State) (id : Nat) : State := if decide (256 < savedCount s + 1) then s else beginSaving s id s.ost.plimit false

/-- Commit a pre-emption: the victims go to SAVING, a scan is told to stop, the rectangle is kept for the head. -/
def commitPreempt (s : State) (id : Nat) (q : RRect) (v : List Nat × List Nat) : State :=
  let s := v.1.foldl preemptTeam s
  let s := v.2.foldl (fun s r => updDie s (regionDie r) (fun d => { d with farrier := d.farrier.map (fun f => { f with pre := some (f.pre.getD s.clock) }) })) s
  { s with ost := { s.ost with holds := s.ost.holds ++ [(q.1, q.2.1, q.2.2.1, q.2.2.2, id)] } }

/-- Pre-empt for a team on one of the rectangles given (R64): the state, and the victims. -/
def preemptOn (s : State) (t : Team) (p : Nat) (noGuard : Bool) (qs : List RRect) : Option (State × List Nat) :=
  let cs := qs.filterMap (fun q => (victimsOf s t.id p noGuard q).map (fun v => (q, v)))
  match leastBy (fun c => victimCost s c.2) (cs.filter (fun c => !(c.2.1.isEmpty && c.2.2.isEmpty))) with
  | none => none
  | some c => if decide (256 < savedCount s + c.2.1.length) then none else some (unqueue (commitPreempt s t.id c.1 c.2) t.id, c.2.1)

def preemptHead (s : State) (t : Team) (p : Nat) (noGuard : Bool) : Option (State × List Nat) :=
  if tagReady s t then preemptOn s t p noGuard (aligned t.w t.h) else none

/-! ### Hitches (R74) -/

def isCoordinator (s : State) (h : Nat) : Bool :=
  match s.ost.hitches.find? h with
  | some x => x.members.foldl min 8192 == modN s
  | none => false

/-- WALLCLOCK in nanoseconds. -/
def wallNow (s : State) : Nat := s.host.wallclock + s.clock

/-- A SAVED team comes back from its image; one whose image is refused is LOST (R109). -/
def comeBack (s : State) (t : Team) : State := (doRestore s t.id t.leave.space t.leave.area none).getD (reportLost s t.id)

/-- Place a member launch, or pre-empt for it with p = 7 and without the guard; a SAVED member regains its own regions and comes back up to
START. None: neither can be done now, or it has been done. -/
def gateTry (s : State) (h : Nat) (t : Team) : Option State :=
  let note (s : State) (vs : List Nat) : State := updHitch s h (fun x => { x with team := some t.id, displaced := x.displaced ++ vs })
  if s.ost.holds.any (fun k => k.2.2.2.2 == t.id) then none
  else if t.state == .saved then
    let q : RRect := (t.x, t.y, t.w, t.h)
    if rectFree s t.id q then some (comeBack (note s []) t)
    else (preemptOn s t 7 true [q]).map (fun x => note x.1 x.2)
  else if t.state == .queued && s.sec.lcs != .retired then
    match place s t with
    | some s => some (note s [])
    | none => (preemptHead s t 7 true).map (fun x => note x.1 x.2)
  else none

/-- The member launch of a hitch: QUEUED or SAVED. -/
def memberOf (s : State) (h : Nat) : Option Team := s.teams.vals.find? (fun t => t.hitch == some h && (t.state == .queued || (t.state == .saved && !t.leave.lost)))

/-- The coordinator selects its member: T is set and GATE goes to the others; whether the member has been served. -/
def openGate (s : State) (h : Nat) (t : Team) : Bool × State :=
  let at' := wallNow s + (s.ost.hitches.getD h {}).lead * 1000
  let s := updHitch s h (fun x => { members := x.members, lead := x.lead, t := some at' })
  let s := hitchSay s h "GATE" (BitVec.ofNat 64 at')
  match gateTry s h t with
  | some s => (true, s)
  | none => (false, s)

/-- A member's turn in the selection: the coordinator opens the gate; while a gate is pending, the launch is tried again. -/
def hitchTurn (s : State) (h : Nat) (t : Team) : Bool × State :=
  match s.ost.hitches.find? h with
  | none => (false, s)
  | some x =>
    if x.t.isSome then
      (if x.startedAt then (false, s) else match gateTry s h t with | some s => (true, s) | none => (false, s))
    else if isCoordinator s h then openGate s h t else (false, s)

/-- Members whose gate is pending and that have not been served are tried ahead of every other launch (R74). -/
def retryGates (s : State) : State :=
  s.ost.hitches.cells.foldl (fun s c =>
    if c.2.t.isSome && !c.2.startedAt && c.2.team.isNone then
      (match memberOf s c.1 with
        | some t => (gateTry s c.1 t).getD s
        | none => s)
    else s) s

/-! ### Selection (R62, R65) -/

/-- One port's heads at priority p, one after the other while they can be served within the deficit: at most 128 regions (R62). -/
def servePort (p : Nat) (q : Nat) : Nat → State → State
  | 0, s => s
  | n + 1, s =>
    match headOfQueue s q with
    | none => s
    | some t =>
      let cost := t.w * t.h
      let deficit := s.ost.deficit.getD q 0
      if t.state != .queued || s.sec.lcs == .retired || effPrio s t != p || decide (deficit < cost) then s
      else
        let paid (s : State) : State := { s with ost := { s.ost with deficit := s.ost.deficit.put q (deficit - cost) } }
        match t.hitch with
        | some h =>
          let x := hitchTurn s h t
          if x.1 then servePort p q n (readHead (paid x.2) q) else x.2
        | none =>
          match place s t with
          | some s => servePort p q n (readHead (paid s) q)
          | none => match preemptHead s t p false with
            | some x => servePort p q n (readHead (paid x.1) q)
            | none => s

/-- The ports that have a head of priority p, from the pointer on. -/
def portOrder (s : State) (p : Nat) : List Nat :=
  let qs := sortKeys ((s.ost.queues.cells.map (·.1)).filter (fun q => match headOfQueue s q with
    | some t => t.state == .queued && effPrio s t == p
    | none => false))
  let start := s.ost.pointer.getD p 0
  qs.filter (fun q => decide (start ≤ q)) ++ qs.filter (fun q => decide (q < start))

/-- One full turn of the deficit round-robin at priority p. DESIGN CHOICE (log 49): after a full turn the pointer stands at the port it
began with. -/
def roundRobin (s : State) (p : Nat) : State :=
  let order := portOrder s p
  let s := order.foldl (fun s q =>
    let s := { s with ost := { s.ost with deficit := s.ost.deficit.put q (min (s.ost.deficit.getD q 0 + 16) 128) } }
    servePort p q 129 s) s
  match order with
  | q :: _ => { s with ost := { s.ost with pointer := s.ost.pointer.put p q } }
  | [] => s

/-- Restore a SAVED team to its regions, or pre-empt for it (R65). A hitch member waits for its gate (R74). -/
def tryRestore (s : State) (p : Nat) (t : Team) : State :=
  let q : RRect := (t.x, t.y, t.w, t.h)
  match t.hitch with
  | some h => (hitchTurn s h t).2
  | none =>
    if rectFree s t.id q then comeBack s t
    else if s.ost.holds.any (fun h => h.2.2.2.2 == t.id) then s
    else match preemptOn s t p false [q] with
      | some x => x.1
      | none => s

/-- SAVED teams of priority p by entry time. -/
def savedAt (s : State) (p : Nat) : List Team :=
  let ts := s.teams.vals.filter (fun t => t.state == .saved && !t.leave.lost && effPrio s t == p)
  let rec go : Nat → List Team → List Team
    | 0, _ => []
    | n + 1, l => match leastBy (fun t : Team => t.since) l with
      | some t => t :: go n (l.filter (fun u => u.id != t.id))
      | none => []
  go ts.length ts

/-- Heads that hold a kept rectangle enter it once it is free (R64); a SAVED member of a hitch comes back in it (R74). -/
def enterKept (s : State) : State :=
  s.ost.holds.foldl (fun s h =>
    let t := getTeam s h.2.2.2.2
    if t.state == TState.saved && !t.leave.lost && gatePending s t && rectFree s t.id (h.1, h.2.1, h.2.2.1, h.2.2.2.1) then comeBack s t
    else if t.state == TState.queued && s.sec.lcs != .retired && rectFree s t.id (h.1, h.2.1, h.2.2.1, h.2.2.2.1) && tagReady s t then takeRect s t.id (h.1, h.2.1, h.2.2.1, h.2.2.2.1) else s) s

/-- A head whose kept rectangle is lost competes again; holds of teams that are gone are dropped (R222, R373). -/
def tidyQueues (s : State) : State :=
  let s := { s with ost := { s.ost with
    holds := s.ost.holds.filter (fun h => let t : Team := getTeam s h.2.2.2.2; t.state == TState.queued || t.state == TState.saved)
    deficit := s.ost.deficit.mapVals (fun q d => if (headOfQueue s q).isNone then 0 else d) } }
  s.teams.vals.foldl (fun (s : State) (t : Team) =>
    if t.state == TState.queued && !((s.ost.queues.getD t.port []).contains t.id) && !(s.ost.holds.any (fun h => h.2.2.2.2 == t.id)) then
      { s with ost := { s.ost with queues := s.ost.queues.put t.port (t.id :: s.ost.queues.getD t.port []) } }
    else s) s

/-- One selection (R62). -/
def selection (s : State) : State :=
  let s := retryGates (enterKept (tidyQueues (drainAll s)))
  let s := (List.range 8).reverse.foldl (fun s p => roundRobin ((savedAt s p).foldl (fun s t => tryRestore s p t) s) p) s
  { s with ost := { s.ost with deficit := s.ost.deficit.mapVals (fun q d => if (headOfQueue s q).isNone then 0 else d) } }

/-- OSTLER_SELECTION. -/
def execOstlerSelection (s : State) : Out' := runStep selection s

/-! ### LOADING (R47, R67) -/

/-- A strand as a load leaves it before the Groom (R266): the launch's priority, supervisor mode for a supervisor team (R372). -/
def freshStrand (t : Team) : Strand :=
  { spr := { svm := t.svm, prio := BitVec.ofNat 3 t.prio, eprio := BitVec.ofNat 3 t.prio } }

/-- Registers of an entry: g1 to g30, with g0 and g31 zero. -/
def entryRegs (e : GEntry) : Vector Word 32 := Vector.ofFn (fun (k : Fin 32) => if k.val = 0 then 0 else e.regs.getD (k.val - 1) 0)

/-- The Groom (R47): the strands as filled, those that run, which wait for START (R67), then ARG0 and ARG1. -/
def groom (s : State) (t : Team) (dpc : Word) (es : List GEntry) : State :=
  let s := t.strands.foldl (fun s i => setStrand s i (freshStrand t)) { s with teth := { s.teth with dirty := s.teth.dirty ++ t.strands } }
  let idx (e : GEntry) : Nat := ((t.y + e.ry) * 16 + t.x + e.rx) * 4 + e.strand
  let s := es.foldl (fun s e => setStrand s (idx e) { freshStrand t with regs := entryRegs e, pc := e.pc, run := if e.run then .ready else .idle, hold := if e.run then some .start else none }) s
  t.regions.foldl (fun s r =>
    let z := r * 4
    let s := if dpc != 0 && !(es.any (fun e => idx e == z)) then setStrand s z { freshStrand t with pc := dpc, run := .ready, hold := some .start } else s
    updStrand s z (fun st => { st with regs := (st.regs.set 1 t.arg0).set 2 t.arg1 })) s

/-- A region as a load leaves it: its numbers start at 1 (R268). -/
def freshRegion (g : Region) : Region :=
  { g with cmds := {}, ports := {}, sects := {}, ctrlq := [], phases := {}, carters := {}, barrier := {}, prog := 1, started := [] }

/-- A tile as a load leaves it (R130): everything but its gait, which is to be WALK (R67). -/
def freshTile (t : Tile) : Tile := { gait := { t.gait with req := 1 }, busy := t.busy }

/-- What a load comes to: it waits for a place in a cache, it is refused with a reason and record of R46, or it is done. -/
inductive Loaded where
  | waits
  | refused (reason : Nat) (record : Word)
  | done (s : State)

/-- Each die's own copy of an image.  -/
abbrev Copies := List (Nat × List Byte × Img)

/-- The image of a team from the caches of its dies, each copy checked as it is fetched (R44, R128). None: a cache has no place for it; an
error: the record of a copy that fails its checks. -/
def teamImage (s : State) (t : Team) : List Nat → Option (Except Word (Copies × State))
  | [] => some (.ok ([], s))
  | d :: ds =>
    match cacheFetch s d t.image (fun bs => (bytesRecord s t.w t.h bs).isNone) with
    | none => none
    | some (bs, s) =>
      match bytesRecord s t.w t.h bs, readImage bs with
      | none, .ok m => (teamImage s t ds).map (fun r => r.map (fun x => ((d, bs, m) :: x.1, x.2)))
      | some w, _ => some (.error w)
      | none, .error e => some (.error (checkRecord 0 15 0 0 e))

/-- What a die's copy installs: its tiles, its regions, and the channels that its tiles and ports produce. -/
def takeCopy (t : Team) (d : Nat) (made s : State) : State :=
  let here (r : Nat) : Bool := regionDie r == d
  let s := { s with
    tiles := made.tiles.cells.foldl (fun m c => if here (c.1 / 256) && t.regions.contains (c.1 / 256) then m.put c.1 c.2 else m) s.tiles
    regions := made.regions.cells.foldl (fun m c => if here c.1 && t.regions.contains c.1 then m.put c.1 c.2 else m) s.regions }
  made.chans.vals.foldl (fun s c => if c.team == t.id && here c.preg then setChan s (freshChid s) { c with head := setBits c.head 112 16 (freshChid s) } else s) s

/-- Every die loads its own copy of the image (R44); equal copies are loaded as one. -/
def installCopies (s : State) (t : Team) (cs : Copies) : State :=
  match cs with
  | [] => s
  | x :: xs =>
    if xs.all (fun y => y.2.1 == x.2.1) then installImage s t 0 none x.2.2
    else cs.foldl (fun a y => takeCopy t y.1 (installImage s t 0 none y.2.2) a) s

/-- Steps 1 to 3 of R67: the image, the Groom, every tile on its way to WALK, through a wake slot where it is STABLED (R99). -/
def loadTeam (s : State) (id : Nat) (root slicebase cartbase : Word) : Loaded :=
  let s := updTeam s id (fun t => { t with root := root, slicebase := slicebase, cartbase := cartbase })
  let t := getTeam s id
  match teamImage s t (t.regions.map regionDie).eraseDups, readMimg s t.source t.mimg t.w t.h with
  | none, _ => .waits
  | some (.error w), _ => .refused 3 w
  | some (.ok _), none => .refused 5 0
  | some (.ok x), some g =>
    let s := t.regions.foldl (fun s r =>
      let s := updRegion s r freshRegion
      (List.range 256).foldr (fun k s => updTile s r k freshTile) s) x.2
    .done (t.regions.foldl retargetRegion (groom (installCopies s t x.1) t g.1 g.2))

/-- A launch whose image or memory image fails only as it is loaded is refused then: the reason goes where its queue's refusals go, and the
team ends (R46, R59; log 25). -/
def refuseLoad (s : State) (t : Team) (reason : Nat) (record : Word) : State :=
  let s := if t.port % 2050 < 2048 then refusePort s (t.port / 2050 * 2048 + t.port % 2050) { reason := reason, record := record }
    else if reason == 3 then emit s (.event "REFUSAL" [BitVec.ofNat 64 (2 ^ 34 + t.id), record]) else s
  beginKill s t.id

/-- START, and the team is RUNNING (R59, R67). -/
def startTeam (s : State) (id : Nat) : State :=
  let t := getTeam s id
  let s := startTiles s 0 0 (t.regions.flatMap (fun r => (List.range 256).map (fun k => (r, k))))
  updTeam s id (fun t => { t with state := .running, ranAt := s.clock })

/-- A member of a hitch is ready: it tells the others once (R74). -/
def sayReady (s : State) (h : Nat) : State :=
  if (s.ost.hitches.getD h {}).said then s
  else hitchSay (updHitch s h (fun x => { x with ready := modN s :: x.ready, said := true })) h "READY" (BitVec.ofNat 64 (modN s))

/-- TEAM_LOAD (R47, R67), with the table root and the bases that the firmware sets (R154). It loads the team; once every tile is in WALK, it
sends START. A hitch member stops before START and tells the others (R74). A team that comes back from its image starts in the same
way (R219). -/
def execTeamLoad (team : TeamId) (root slicebase cartbase : Word) (s : State) : Out' :=
  runStep (fun s =>
    let id := team.toNat
    let t := getTeam s id
    if t.state != .loading then s
    else if t.leave.restoring then
      (match t.hitch with
        | some h => if gatePending s t && (s.ost.hitches.getD h {}).team == some id then (if gaitsSettled s t then sayReady s h else s) else finishRestore s id
        | none => finishRestore s id)
    else if s.sec.lcs == .retired then s
    else if t.imageReady then
      (if !gaitsSettled s t then s else match t.hitch with | none => startTeam s id | some h => sayReady s h)
    else if root.toNat % 65536 != 0 || decide (2 ^ 41 ≤ root.toNat) || slicebase.toNat % 2 ^ 45 != 0 || cartbase.toNat % 4096 != 0 then s
    else match loadTeam s id root slicebase cartbase with
      | .waits => s
      | .refused reason record => refuseLoad s t reason record
      | .done s => updTeam s id (fun t => { t with imageReady := true })) s

/-! ### Retirement and KILL -/

/-- What a context leaves behind goes: tether entries, TLB entries, fault entries, trees and channels (R81, R160, R163). -/
def forgetContext (s : State) (t : Team) : State :=
  let gids := t.strands.map (gidOf s)
  let s := dropEntries (dropTeamFaults s t) (fun e => gids.contains e.waiter || (t.atag != 0 && e.atag.toNat == t.atag))
  let keep (l : List Tlb) : List Tlb := l.filter (fun e => !(t.atag != 0 && e.tag == t.atag))
  { s with
    trans := { s.trans with tlb := s.trans.tlb.mapVals (fun _ l => keep l), micro := s.trans.micro.mapVals (fun _ l => keep l)
                            walks := s.trans.walks.filter (fun w => !(t.atag != 0 && w.tag == t.atag)) }
    trees := ⟨s.trees.cells.filter (fun c => c.2.team != t.id)⟩
    saves := s.saves.erase t.id }

/-- The tag returns to the pool (R28). -/
def returnTag (s : State) (t : Team) : State := { s with ost := { s.ost with usedTags := s.ost.usedTags.filter (· != t.atag) } }

/-- A channel whose team has come to its end: its tokens are discarded (R69), its last state stays to be read until its id is used again
(R361). -/
def Chan.ended (c : Chan) : Chan :=
  { c with live := false, branches := c.branches.map (fun b => { b with buf := [], flight := [], spill := [], park := none, st := { b.st with owed := none } }) }

/-- The regions of a team that is final are freed, its channels are out of use. -/
def leaveRegions (s : State) (t : Team) (final : TState) : State :=
  let s := freeRegions s t.regions
  let s := { s with chans := s.chans.mapVals (fun _ c => if c.team == t.id then c.ended else c) }
  updTeam (unqueue s t.id) t.id (fun t => { t with state := final, w := 0, leave := { t.leave with rstep := 6 } })

/-- Whether nothing of a team is in flight (R20, R28, R69, R222): writes, requests, sends, contributions. -/
def landed (s : State) (t : Team) : Bool :=
  t.flying == 0 && t.strands.all (fun i => (getStrand s i).c0 == 0) && !contribFlying s t.id
  && t.regions.all (fun r => (getRegion s r).carters.vals.all (fun k => match k.cur with | some x => x.flying.isEmpty && !x.adding | none => true))
  && s.chans.vals.all (fun c => c.team != t.id || c.branches.all (fun b => b.sent == 0))

/-- RETIRE_COMPLETE (R69), steps 2 to 5; a firing in progress is never cut short (R115). -/
def execRetireComplete (team : TeamId) (s : State) : Out' :=
  runStep (fun s =>
    let t := getTeam s team.toNat
    if t.state != .retiring || !landed s t || s.tiles.cells.any (fun c => t.regions.contains (c.1 / 256) && c.2.fir.isSome) then s
    else
      let s := t.strands.foldl (fun s i => release s i 4) s
      let s := teamAdd s t t.cdone 1
      returnTag (leaveRegions (forgetContext (endHitch s t.id) t) t .retired) t) s

/-- KILL (R59, R222), steps 1 to 3: not of a team that is RETIRED or KILLED. -/
def execKill (team : TeamId) (s : State) : Out' :=
  runStep (fun s =>
    match s.teams.find? team.toNat with
    | none => refuse s "KILL" "NO_TEAM"
    | some t =>
      if t.state == .retired || t.state == .killed then refuse s "KILL" "FINAL"
      else reply (unqueue (beginKill s t.id) t.id) "KILL") s

/-- Step 4 of R222: no write and no packet of the context is in flight, and its last firings are complete. -/
def killDrained (s : State) (t : Team) : Bool :=
  landed s t
  && s.tiles.cells.all (fun c => !t.regions.contains (c.1 / 256) || (decide (c.2.busy ≤ s.clock) && c.2.fir.isNone))
  && !(s.fab.inbound.any (fun p => t.atag != 0 && Hp.smod p == modN s && Hp.atag p == t.atag && Hp.cls p != 2))

/-- KILL_COMPLETE (R222), steps 5 and 6. -/
def execKillComplete (team : TeamId) (s : State) : Out' :=
  runStep (fun s =>
    let t := getTeam s team.toNat
    if t.state != .killed || t.leave.rstep == 6 || !killDrained s t then s
    else
      let s := leaveRegions (forgetContext s t) t .killed
      let s := emit s (.event "KILLED" [BitVec.ofNat 64 t.id])
      if s.ost.withheld.contains t.atag then s else returnTag s t) s

/-- KILLSTUCK (R223): 100 ms after the KILL the tag is withheld. -/
def execKillstuck (team : TeamId) (s : State) : Out' :=
  runStep (fun s =>
    let t := getTeam s team.toNat
    if t.state != .killed || t.leave.rstep == 6 || t.leave.stuck || killDrained s t || decide (s.clock < t.leave.killAt + 100000000) then s
    else
      let s := updTeam s t.id (fun t => { t with leave := { t.leave with stuck := true } })
      let s := { s with ost := { s.ost with withheld := if t.atag = 0 then s.ost.withheld else t.atag :: s.ost.withheld } }
      emit s (.event "KILLSTUCK" [BitVec.ofNat 64 t.atag])) s

/-! ### The start of a hitch (R74) -/

/-- HITCHSET. -/
def execHitchset (hid : Half) (members : List ModId) (lead : Half) (s : State) : Out' :=
  runStep (fun s =>
    let ms := (members.map BitVec.toNat).eraseDups
    let l := if lead = 0 then 500 else lead.toNat
    if decide (ms.length < 2) || decide (64 < ms.length) || decide (l < 100) || decide (10000 < l) then refuse s "HITCHSET" "RESERVED"
    else reply (updHitch s hid.toNat (fun _ => { members := ms, lead := l })) "HITCHSET") s

/-- HITCH_GATE: a member receives GATE(T) and selects its launch ahead of every other. -/
def execHitchGate (hid : Half) (t : Word) (s : State) : Out' :=
  runStep (fun s =>
    let h := hid.toNat
    match s.ost.hitches.find? h with
    | none => s
    | some x =>
      if isCoordinator s h || x.startedAt then s
      else
        let s := updHitch s h (fun x => { members := x.members, lead := x.lead, t := some t.toNat, ready := x.ready })
        match memberOf s h with
        | some m => (gateTry s h m).getD s
        | none => s) s

/-- Restore the teams that a gate displaced, where their regions are free. -/
def restoreDisplaced (s : State) (ids : List Nat) : State :=
  ids.foldl (fun s i => let t := getTeam s i; if t.state == .saved && !t.leave.lost then tryRestore s 0 t else s) s

/-- The gate is off: the member goes back to QUEUED, or stays SAVED; GANG_LATE names the module at fault. -/
def abandonHitch (s : State) (h named : Nat) : State :=
  let x := s.ost.hitches.getD h {}
  let s := match x.team with
    | some id =>
      let t := getTeam s id
      let s := { s with ost := { s.ost with holds := s.ost.holds.filter (fun k => k.2.2.2.2 != id) } }
      if t.state == .loading && t.leave.restoring then unrestore s id
      else if t.state == .loading then
        let s := returnTag (forgetContext (freeRegions s t.regions) t) t
        let s := { s with chans := ⟨s.chans.cells.filter (fun c => c.2.team != id)⟩ }
        let s := updTeam s id (fun t => { t with state := .queued, since := s.clock, x := 0, y := 0, atag := 0, imageReady := false })
        { s with ost := { s.ost with queues := s.ost.queues.put t.port (id :: s.ost.queues.getD t.port []) } }
      else if t.state == .running then preemptForced s id
      else s
    | none => s
  let s := restoreDisplaced s x.displaced
  emit (clearGate s h) (.event "GANG_LATE" [BitVec.ofNat 64 named])

/-- HITCH_READY: READY (0), LATE (1) or ABANDON (2) arrives from a member. An ABANDON before this member's START abandons at once (DESIGN CHOICE: R74
speaks of one after START; log 38). -/
def execHitchReady (hid : Half) (src : ModId) (msg : BitVec 2) (named : ModId) (s : State) : Out' :=
  runStep (fun s =>
    let h := hid.toNat
    match s.ost.hitches.find? h with
    | none => s
    | some x =>
      if !x.members.contains src.toNat then s
      else match msg.toNat with
        | 0 => updHitch s h (fun x => { x with ready := src.toNat :: x.ready })
        | 1 => updHitch s h (fun x => { x with late := src.toNat :: x.late })
        | 2 => if x.t.isSome then abandonHitch s h named.toNat else s
        | _ => s) s

/-- Whether this module's member is ready to start. -/
def memberReady (s : State) (x : Hitch) : Bool :=
  match x.team with
  | some id => let t := getTeam s id; t.state == .loading && (t.imageReady || t.leave.restoring) && gaitsSettled s t
  | none => false

/-- HITCH_LATE_CHECK: at T − 25 µs a member that has not spoken says READY or LATE. -/
def execHitchLateCheck (hid : Half) (s : State) : Out' :=
  runStep (fun s =>
    let h := hid.toNat
    match s.ost.hitches.find? h with
    | none => s
    | some x => match x.t with
      | none => s
      | some t =>
        if x.said || x.startedAt || decide (wallNow s + 25000 < t) then s
        else if memberReady s x then sayReady s h
        else hitchSay (updHitch s h (fun x => { x with said := true, late := modN s :: x.late })) h "LATE" (BitVec.ofNat 64 (modN s))) s

/-- HITCH_START: at T the member starts when every other is READY; otherwise it abandons and tells the others. -/
def execHitchStart (hid : Half) (s : State) : Out' :=
  runStep (fun s =>
    let h := hid.toNat
    match s.ost.hitches.find? h with
    | none => s
    | some x => match x.t with
      | none => s
      | some t =>
        if x.startedAt || decide (wallNow s < t) || s.sec.lcs == .retired then s
        else
          let bad := match x.late.getLast? with
            | some m => some m
            | none => x.members.find? (fun m => if m == modN s then !memberReady s x else !x.ready.contains m)
          match bad, x.team with
          | none, some id =>
            let s := updHitch s h (fun x => { x with startedAt := true })
            if (getTeam s id).leave.restoring then finishRestore s id else startTeam s id
          | some m, _ => abandonHitch (hitchSay s h "ABANDON" (BitVec.ofNat 64 m)) h m
          | none, none => abandonHitch (hitchSay s h "ABANDON" (BitVec.ofNat 64 (modN s))) h (modN s)) s

/-- HITCH_PREEMPTION: another member was pre-empted, and so is this one. -/
def execHitchPreemption (hid : Half) (s : State) : Out' :=
  runStep (fun s =>
    let h := hid.toNat
    match s.teams.vals.find? (fun t => t.hitch == some h && t.state == .running) with
    | some t => clearGate (preemptForced s t.id) h
    | none => s) s

end Sys2Proof.Machine
end

