-- ==== Sys2Proof/Machine/Boot.lean ====
section
/-! DEFINITION. Boot, measurement, attestation and the lifecycle (R50–R58), the registration of images (R44, R257), power-up (R49) and
power loss (R109). -/

namespace Sys2Proof.Machine

/-! ### Measurement (R53) -/

def getMeas (t : Trust) (i : Nat) : BitVec 512 := t.meas.getD i 0

/-- MEASi := SHAKE256(MEASi ‖ type ‖ len ‖ data), 64 bytes (R53). -/
def extendMeas (t : Trust) (i : Nat) (ty : Byte) (data : List Byte) : Trust :=
  let msg := toBytes (getMeas t i) 64 ++ [ty] ++ toBytes (BitVec.ofNat 32 data.length) 4 ++ data
  { t with meas := t.meas.set i (BitVec.ofNat 512 (ofBytes (Shake.shake256 msg 64))) }

/-! ### Cold reset (R51, R58) -/

/-- What a reset leaves of the trust record: fuses and flash. -/
def wiped (t : Trust) : Trust :=
  { t with ready := false, recovery := false, dbg := false, svn := 0, meas := List.replicate 8 0, nonce := none, att := [], booted := false }

/-- Whether the boot ROM starts an image (R51). -/
def imageGood (t : Trust) (img : List Byte) : Bool := Config.firmwareSigned img && decide (t.fuses ≤ (Config.firmwareSvn img).toNat)

/-- The boot ROM measures (R53, R58), the firmware blows fuse bits up to its SVN, and on a module whose
DEBUG_OPEN fuse is blown opens the debug port, also once it is RETIRED. -/
def measured (t : Trust) (img : List Byte) : Trust :=
  let svn := (Config.firmwareSvn img).toNat
  let t := extendMeas t 0 (Config.measType 0) img
  let t := extendMeas t 1 (Config.measType 1) (Config.firmwareManifest img ++ [BitVec.ofNat 8 svn])
  let t := extendMeas t 2 (Config.measType 2) (Config.bootEvent t.lcs.code t.fuses t.device t.idSeed t.opened)
  let t := { t with svn := svn, fuses := max t.fuses svn, booted := true }
  if t.opened then { extendMeas t 2 (Config.measType 2) (Config.debugEvent none) with dbg := true } else t

/-- The boot sequence (R51): without a good image the module waits in RECOVERY. -/
def boot (t : Trust) : Trust :=
  let t := wiped t
  match t.flash with
  | some img => if imageGood t img then measured t img else { t with recovery := true }
  | none => { t with recovery := true }

/-- Teams that a reset leaves: SAVED ones, whose images stand outside the volatile state (R109). -/
def afterReset (teams : Assoc Team) : Assoc Team :=
  ⟨(teams.cells.filter (fun c => c.2.state == .saved)).map (fun c => (c.1, { c.2 with since := 0 }))⟩

/-- Every other piece of state goes to its reset value (R49); memory stays; a save that the reset interrupted is reported LOST (R109). -/
def resetAll (s : State) : State :=
  let s := rekeyMem s (modN s) 0
  let teams := afterReset s.teams
  let torn := s.teams.vals.filter (fun t => t.state == .saving)
  let fresh : State :=
    { mem := s.mem, wlog := s.wlog, poison := s.poison.map (rekey (modN s) 0), schedule := s.schedule, free := s.free
      teams := teams, saves := ⟨s.saves.cells.filter (fun c => (teams.find? c.1).isSome)⟩
      ost := { nextTeam := s.ost.nextTeam, serial := s.ost.serial, usedTags := teams.vals.map (fun t => t.atag) }
      host := { out := s.host.out, wallclock := s.host.wallclock + s.clock } }
  torn.foldl (fun s t => emit s (.event "LOST" [BitVec.ofNat 64 t.id])) fresh

/-- COLD_RESET (R51). -/
def execColdReset (s : State) : Out' := runTrust (fun s => boot s.sec) resetAll s

/-- FWLOAD (R51): in RECOVERY the module takes the image and resets itself. DESIGN CHOICE (log 51): outside RECOVERY, of which R51 says
nothing, it is refused with REFUSED. -/
def execFwload (image : List Byte) (s : State) : Out' :=
  runTrust (fun s => if s.sec.recovery then boot { s.sec with flash := some image } else s.sec)
    (fun s => if s.sec.recovery then resetAll s else refuse s "FWLOAD" "REFUSED") s

/-! ### Measured inputs (R44, R53, R257)

DESIGN CHOICE (log 51): the mailbox commands of this file are served in every state of the module, in RECOVERY and before a boot too; the
spec does not say whether a mailbox without firmware answers. -/

/-- MEASEXT (R53): MEAS4–MEAS7, 1 to 4096 bytes. -/
def measextOk (i : BitVec 3) (data : List Byte) : Bool := decide (4 ≤ i.toNat) && decide (1 ≤ data.length) && decide (data.length ≤ 4096)

def execMeasext (i : BitVec 3) (data : List Byte) (s : State) : Out' :=
  runTrust (fun s => if measextOk i data then extendMeas s.sec i.toNat (Config.measType i.toNat) data else s.sec)
    (fun s => if measextOk i data then reply s "MEASEXT" else refuse s "MEASEXT" "REFUSED") s

/-- Whether IMGREG takes an image (R44, R254): id 0 is never valid, the bytes lie in HBM, and the header names the id. -/
def imgregOk (s : State) (id : Word32) (addr len : Word) : Bool :=
  id != 0 && decide (addr.toNat + len.toNat ≤ Config.hbmBytes) && decide (64 ≤ len.toNat)
    && ofBytes (readBytes s (hbmKey (modN s) (addr.toNat + 4)) 4) == id.toNat

/-- The entry that MEAS3 is extended with (R257): IMGID, LEN and the digest of the registered bytes. -/
def imgEntry (s : State) (id : Word32) (addr len : Word) : List Byte :=
  toBytes id 4 ++ toBytes len 8 ++ Shake.shake256 (readBytes s (hbmKey (modN s) addr.toNat) len.toNat) 32

/-- IMGREG (R44, R257). -/
def execImgreg (id : Word32) (addr len : Word) (s : State) : Out' :=
  runTrust (fun s => if imgregOk s id addr len then extendMeas s.sec 3 0x03 (imgEntry s id addr len) else s.sec)
    (fun s =>
      if imgregOk s id addr len then
        let i : Image := { addr := addr.toNat, len := len.toNat, serial := s.ost.serial }
        reply { s with ost := { s.ost with images := s.ost.images.put id.toNat i, serial := s.ost.serial + 1 } } "IMGREG"
      else refuse s "IMGREG" "REFUSED") s

/-! ### Attestation (R54, R55) -/

/-- Why a request is refused (R54, R55). -/
def attRefusal (t : Trust) : Option String := if t.lcs = .blank then some "NOKEY" else if 4 ≤ t.att.length then some "BUSY" else none

def takeRequest (t : Trust) (src : BitVec 2) (nonce : BitVec 256) : Trust :=
  if (attRefusal t).isSome then t else { t with att := t.att ++ [(src, nonce)] }

/-- A request that is refused is answered where it came from: over a mailbox, or over I3C (source 2), which raises no MSI-X vector. -/
def answerRequest (s : State) (src : BitVec 2) : State :=
  match attRefusal s.sec with
  | some why => if src = 2 then emit s (.refuse "ATTEST" why) else refuse s "ATTEST" why
  | none => s

/-- ATTEST_REQUEST (R54). -/
def execAttestRequest (src : BitVec 2) (nonce : BitVec 256) (s : State) : Out' := runTrust (fun s => takeRequest s.sec src nonce) (fun s => answerRequest s src) s

/-- The 688-byte body of a report (R55). -/
def reportBody (t : Trust) (modId : Nat) (nonce : BitVec 256) : List Byte :=
  let w (v n : Nat) : List Byte := toBytes (BitVec.ofNat 64 v) n
  w 0x545254414C4E4C4D 8 ++ w 1 4
    ++ w (t.lcs.code + (if t.dbg then 8 else 0) + (if t.recovery then 16 else 0)) 4
    ++ toBytes t.device 16 ++ toBytes nonce 32
    ++ w (t.svn % 256 + t.fuses % 256 * 256) 8 ++ w modId 8
    ++ (Config.identityDigest t.idSeed ++ List.replicate 32 0).take 32
    ++ List.replicate 64 0
    ++ (List.range 8).flatMap (fun i => toBytes (getMeas t i) 64)

/-- ATTEST_REPORT (R54, R55): a request is answered, the oldest first (DESIGN CHOICE: R54 gives no order of those pending; log 51). -/
def execAttestReport (s : State) : Out' :=
  runTrust (fun s => { s.sec with att := s.sec.att.tail })
    (fun s => match s.sec.att with
      | q :: _ =>
        let body := reportBody s.sec (if s.fab.written then modN s else 0) q.2
        let s' := emit s (.report q.1.toNat body (Config.reportSignature s.sec.idSeed body))
        if q.1 = 2 then s' else emit s' (.msix 0)
      | [] => s) s

/-! ### Lifecycle (R56, R57) -/

/-- DEPLOY (R56). -/
def execDeploy (s : State) : Out' :=
  runTrust (fun s => if s.sec.lcs = .provisioned then { s.sec with lcs := .deployed } else s.sec)
    (fun s => if s.sec.lcs = .provisioned then reply s "DEPLOY" else refuse s "DEPLOY" "REFUSED") s

/-- PROVISIONING (R55, R56): at manufacture; the device id is fused and the identity key comes from fused entropy. -/
def execProvisioning (device : BitVec 128) (key : BitVec 256) (s : State) : Out' :=
  runTrust (fun s => if s.sec.lcs = .blank then { s.sec with lcs := .provisioned, device := device, idSeed := key } else s.sec) id s

/-- DBGNONCE (R57): the nonce, which the firmware draws, is good for one attempt. -/
def execDbgnonce (nonce : BitVec 256) (s : State) : Out' :=
  runTrust (fun s => { s.sec with nonce := some nonce }) (fun s => reply s "DBGNONCE" (splitWords nonce 4)) s

/-- The signed part of a token (R57): device id, expected state, nonce. -/
def tokenBody (device : BitVec 128) (lcs : BitVec 3) (nonce : BitVec 256) : List Byte :=
  toBytes device 16 ++ [lcs.setWidth 8] ++ toBytes nonce 32

/-- Step 3 of R57: signature, device id, state and nonce. -/
def tokenGood (t : Trust) (device : BitVec 128) (lcs : BitVec 3) (nonce : BitVec 256) (sig : List Byte) : Bool :=
  Config.tokenSigned (tokenBody device lcs nonce) sig && device == t.device && lcs.toNat == t.lcs.code && t.nonce == some nonce

/-- A team of a tenant that is not over (R57). DESIGN CHOICE (log 51): supervisor teams count as the firmware's own, and a team in KILLED is not
live although the steps of R222 may still run. -/
def tenantLive (s : State) : Bool := s.teams.vals.any (fun t => !t.svm && t.state != .retired && t.state != .killed)

def unlockable (t : Trust) : Bool := t.lcs == .provisioned || t.lcs == .deployed

/-- Steps 4 to 7 of R57. -/
def unlocked (t : Trust) (digest : List Byte) : Trust :=
  { extendMeas { t with lcs := .debugOpen, opened := true, nonce := none } 2 (Config.measType 2) (Config.debugEvent (some digest)) with dbg := true }

/-- DBGUNLOCK (R57): BUSY while a tenant's team lives; a failed check uses the nonce up. DESIGN CHOICE (log 51): in BLANK, DEBUG_OPEN and
RETIRED a token fails too, whatever it holds; the token's digest in the debug-open event has 32 bytes. -/
def execDbgunlock (device : BitVec 128) (lcs : BitVec 3) (nonce : BitVec 256) (sig : List Byte) (s : State) : Out' :=
  runTrust (fun s =>
      if tenantLive s then s.sec
      else if unlockable s.sec && tokenGood s.sec device lcs nonce sig then
        unlocked s.sec (Shake.shake256 (tokenBody device lcs nonce ++ sig) 32)
      else { s.sec with nonce := none })
    (fun s =>
      if tenantLive s then refuse s "DBGUNLOCK" "BUSY"
      else if unlockable s.sec && tokenGood s.sec device lcs nonce sig then reply s "DBGUNLOCK"
      else refuse s "DBGUNLOCK" "DENIED") s

/-- Whether a retirement token is the vendor's and bound to this module (R56): laid out as the parts of R57 in their order. DESIGN CHOICE
(log 51): the vendor's key is the one that signs debug-unlock tokens, so that a token of one kind passes the other's check. -/
def retireGood (t : Trust) (token : List Byte) : Bool :=
  t.lcs != .blank && t.lcs != .retired && decide (49 ≤ token.length)
    && tokenGood t (BitVec.ofNat 128 (ofBytes (token.take 16))) ((token.getD 16 0).setWidth 3)
        (BitVec.ofNat 256 (ofBytes ((token.drop 17).take 32))) (token.drop 49)
    && decide ((token.getD 16 0).toNat < 8)

/-- RETIRE (R56). DESIGN CHOICE (log 51): a debug port that is open stays open. -/
def execRetire (token : List Byte) (s : State) : Out' :=
  runTrust (fun s => if retireGood s.sec token then { s.sec with lcs := .retired, nonce := none } else { s.sec with nonce := none })
    (fun s => if retireGood s.sec token then reply s "RETIRE" else refuse s "RETIRE" "DENIED") s

/-! ### Management (R50) -/

/-- What an I3C request reads (R50): MSTAT, FLSTAT of every link, the lifecycle state, die temperatures, HBM temperatures, power. The
last two are sensors of their own. -/
def i3cRead (s : State) (kind : Nat) : List Word :=
  match kind with
  | 0 => [mstatWord s.sec]
  | 1 => (List.range 16).map (fun n => flstatWord (getLink s n))
  | 2 => [BitVec.ofNat 64 s.sec.lcs.code]
  | 3 => (List.range 32).map (fun d => BitVec.ofNat 64 (getDie s d).temp)
  | 4 => (List.range 32).map (fun d => Config.freeWord (s.free + d))
  | 5 => [Config.freeWord s.free]
  | _ => []

/-- I3C_REQUEST (R50): kinds 0 to 5 read, 6 asks for a report, 7 resets the module. -/
def execI3cRequest (kind : BitVec 4) (nonce : BitVec 256) (s : State) : Out' :=
  runTrust (fun s => if kind = 6 then takeRequest s.sec 2 nonce else if kind = 7 then boot s.sec else s.sec)
    (fun s =>
      if kind = 6 then answerRequest s 2
      else if kind = 7 then resetAll s
      else if kind.toNat < 6 then emit { s with free := s.free + 32 } (.reply "I3C" (i3cRead s kind.toNat))
      else s) s

/-! ### Power (R49, R108, R109) -/

/-- The keys of a region's slices. -/
def inSlices (s : State) (r key : Nat) : Bool :=
  decide (tileKey s r 0 0 ≤ key) && decide (key < tileKey s r 0 0 + 256 * Config.sliceBytes)

/-- A region may begin its power-up (R49): the firmware runs, every lower region is up, and its stagger has passed. -/
def mayPowerUp (s : State) (r : Nat) : Bool :=
  s.sec.booted && !s.sec.recovery && !(getRegion s r).up && (List.range r).all (fun k => (getRegion s k).up)
    && (r == 0 || (match s.power.began with | some c => decide (c + 2000 * r ≤ s.clock) | none => false))

/-- The region's tiles come up STABLED, its slices zeroed under valid ECC. -/
def powerUp (s : State) (r : Nat) : State :=
  let old := s.mem.filter (fun c => inSlices s r c.1)
  let s := old.foldl (fun s c => writeBytes s c.1 [0]) s
  let s := { s with poison := s.poison.filter (fun k => !inSlices s r k)
                    tiles := ⟨s.tiles.cells.filter (fun c => c.1 / 256 != r)⟩
                    power := if r = 0 then { s.power with began := some s.clock } else s.power }
  setRegion s r { lr := (getRegion s r).lr, up := true }

/-- REGION_POWER_UP (R49): READY after the last one, and the launches that waited are read. -/
def execRegionPowerUp (r : RegionId) (s : State) : Out' :=
  runTrust (fun s => if mayPowerUp s r.toNat && r == 127 then { s.sec with ready := true } else s.sec)
    (fun s =>
      if mayPowerUp s r.toNat then
        let s := powerUp s r.toNat
        if r == 127 then drainAll { s with sec := { s.sec with ready := true } } else s
      else s) s

/-- Power goes: what memory held is lost (R109). -/
def cutPower (s : State) : State :=
  let s := s.mem.foldl (fun s c => if c.1 / 2 ^ 48 == modN s then writeBytes s c.1 [Memory.blank] else s) s
  { s with poison := [], power := { s.power with powered := false } }

/-- POWER_LOSS (R109). -/
def execPowerLoss (s : State) : Out' := runTrust (fun s => { s.sec with ready := false, booted := false }) cutPower s

/-! ### Heat (R108) -/

def dieRegions (d : Nat) : List Nat := (List.range 128).filter (fun r => regionDie r == d)

/-- While the warn trip holds, every team that runs on a region of the die is saved, with 20 µs to quiesce; a save in progress gets the same
limit and the thermal area. It does so beyond 256 SAVED teams too (DESIGN CHOICE: R59 bounds them, R108 saves every team of the die; log 45). -/
def saveHot (s : State) (d : Nat) : State :=
  let onDie (t : Team) : Bool := t.regions.any (fun r => t.holds r && regionDie r == d)
  s.teams.vals.foldl (fun s t =>
    if !onDie t then s
    else if t.state == .running then pullHitch (beginSaving s t.id 20000 true) t
    else if t.state == .saving && !t.leave.thermal then
      updTeam s t.id (fun t => { t with leave := { t.leave with thermal := true, limit := min t.leave.limit (s.clock - t.leave.began + 20000) } })
    else s) s

/-- The warn trip holds the die out of placement and is posted. -/
def warnDie (s : State) (d : Nat) : State :=
  let s := (dieRegions d).foldl (fun s r => updRegion s r (fun g => { g with hot := true })) s
  emit (emit s (.event "THERMAL_SAVE" [BitVec.ofNat 64 d])) (.msix 2)

/-- THERMAL_SAMPLE (R108), at most once in 10 µs: the trips at 100, 105 and 125 °C; the throttle ends below 95 °C. -/
def execThermalSample (die : DieId) (celsius : BitVec 8) (s : State) : Out' :=
  runStep (fun s =>
    let c := celsius.toNat
    let d := die.toNat
    let was := (getDie s d).warn
    let early := match (getDie s d).sampled with | some t => decide (s.clock < t + 10000) | none => false
    if early then s
    else
    let s := updDie s d (fun x => { x with
      temp := c
      sampled := some s.clock
      throttle := if 100 ≤ c then true else if c < 95 then false else x.throttle
      warn := x.warn || decide (105 ≤ c)
      coolSince := if c < 95 then some (x.coolSince.getD s.clock) else none })
    let s := if 105 ≤ c && !was then warnDie s d else s
    let s := if (getDie s d).warn then saveHot s d else s
    if 125 ≤ c then cutPower s else s) s

/-- THERMAL_COOLDOWN (R108): 10 ms below 95 °C; the die's regions take part in placement again. -/
def execThermalCooldown (die : DieId) (s : State) : Out' :=
  runStep (fun s =>
    let d := die.toNat
    let x := getDie s d
    match x.warn, x.coolSince with
    | true, some c =>
      if decide (c + 10000000 ≤ s.clock) then
        let s := updDie s d (fun x => { x with warn := false, coolSince := none })
        (dieRegions d).foldl (fun s r => updRegion s r (fun g => { g with hot := false })) s
      else s
    | _, _ => s) s

end Sys2Proof.Machine
end

