-- ==== Sys2Proof/Machine/Firmware.lean ====
section
/-! DEFINITION. Table walks and invalidation (R155, R160, R161), and the limits that the mailbox sets (R103, R105, R108, R217). -/

namespace Sys2Proof.Machine

/-! ### Translation (R155, R160, R161) -/

/-- The context that a tag belongs to. -/
def teamOfTag (s : State) (tag : Nat) : Option Team :=
  s.teams.vals.find? (fun t => t.atag == tag && t.state != .retired && t.state != .killed && t.state != .depwait && t.state != .queued)

/-- PAGE_WALK_COMPLETE (R155, R160): the oldest walk in flight of the page of `va` reads the tables at their homes and ends. -/
def execPageWalkComplete (tag : Atag) (va : Word) (s : State) : Out' :=
  runStep (fun s =>
    match s.trans.walks.find? (fun w => w.tag == tag.toNat && w.page == va.toNat / 65536 && walking s w) with
    | none => s
    | some w => finishWalk s w (match teamOfTag s w.tag with
      | none => .error (false, 0)
      | some t => walkTable s t.root (w.page * 65536))) s

/-- Whether a TLB entry maps an address from lo to hi. -/
def Tlb.covers (e : Tlb) (tag lo hi : Nat) : Bool :=
  e.tag == tag && decide (e.page * 2 ^ shiftOf e.lvl ≤ hi) && decide (lo < (e.page + 1) * 2 ^ shiftOf e.lvl)

/-- TLBINV (R161) is accepted: `hi` is the last address of the range; the walks in progress must finish. -/
def execTlbinv (tag : Atag) (lo hi : Word) (s : State) : Out' :=
  runStep (fun s => { s with trans := { s.trans with inval := s.trans.inval ++ [(tag.toNat, lo.toNat, hi.toNat, s.trans.walks.filter (walking s))] } }) s

/-- TLBINV_COMPLETE (R161): the oldest TLBINV whose walks have all finished; blocked deliveries are tried again (R212). -/
def execTlbinvComplete (s : State) : Out' :=
  runStep (fun s =>
    match s.trans.inval with
    | v :: rest =>
      if !v.2.2.2.isEmpty then s
      else
        let s := { s with
          trans := { s.trans with
            inval := rest
            tlb := s.trans.tlb.mapVals (fun _ l => l.filter (fun e => !e.covers v.1 v.2.1 v.2.2.1))
            micro := s.trans.micro.mapVals (fun _ l => l.filter (fun e => !e.covers v.1 v.2.1 v.2.2.1)) }
          strands := s.strands.mapVals (fun _ st => { st with walkBad := none, traps := { st.traps with blocked := false } }) }
        reply s "TLBINV"
    | [] => s) s

/-! ### Limits -/

/-- CURBSET (R103): a lower value is raised to 4096; one beyond 16,777,215 is refused. -/
def execCurbset (r : RegionId) (v : Word32) (s : State) : Out' :=
  runStep (fun s =>
    if decide (16777215 < v.toNat) then refuse s "CURBSET" "REFUSED"
    else reply (updRegion s r.toNat (fun g => { g with pool := { g.pool with curb := max 4096 v.toNat } })) "CURBSET") s

/-- BUDGETSET (R103). -/
def execBudgetset (v : Word) (s : State) : Out' :=
  runStep (fun s =>
    if decide (2 ^ 40 ≤ v.toNat) then refuse s "BUDGETSET" "REFUSED"
    else reply { s with power := { s.power with budget := v.toNat } } "BUDGETSET") s

/-- QUOTAGRANT (R105, R107): added to REMAIN. -/
def execQuotagrant (team : TeamId) (v : Word) (s : State) : Out' :=
  runStep (fun s =>
    match s.teams.find? team.toNat with
    | some t => reply (setTeam s team.toNat { t with energy := setRemain t.energy t.energy.en (t.energy.remain + v.toNat) }) "QUOTAGRANT"
    | none => refuse s "QUOTAGRANT" "REFUSED") s

/-- TSAVEAREA (R108). -/
def execTsavearea (addr : Word) (s : State) : Out' :=
  runStep (fun s => reply { s with ost := { s.ost with tsave := addr } } "TSAVEAREA") s

/-- PLIMSET (R217): 20 to 10,000 µs, kept in clocks. -/
def execPlimset (us : Half) (s : State) : Out' :=
  runStep (fun s =>
    if decide (us.toNat < 20) || decide (10000 < us.toNat) then refuse s "PLIMSET" "REFUSED"
    else reply { s with ost := { s.ost with plimit := us.toNat * 1000 } } "PLIMSET") s

end Sys2Proof.Machine
end

