-- ==== Sys2Proof/Machine/Host.lean ====
section
/-! DEFINITION. The host's side (R34–R43, R181): messages to ingress slots, BAR2, the registers of BAR0, port descriptors, and the move of
a stream's tokens to the team's entry channel. -/

namespace Sys2Proof.Machine

def hostPort (s : State) (host : Bool) : HostPort := if host then s.host.hp1 else s.host.hp0
def setHostPort (s : State) (host : Bool) (h : HostPort) : State :=
  { s with host := if host then { s.host with hp1 := h } else { s.host with hp0 := h } }

/-! ### Ingress slots (R36–R38) -/

namespace Slot
def v (e : Word) : Bool := bit e 63
def port (e : Word) : Nat := bitsN e 43 5 * 2048 + bitsN e 32 11
/-- The bits of an entry that a write keeps. -/
def mask : Word := BitVec.ofNat 64 (2 ^ 63 + (2 ^ 16 - 1) * 2 ^ 32)
end Slot

/-- A message of a port that does not take it counts in REJECTED (R37, R40). -/
def rejectPort (s : State) (p : Nat) : State :=
  let ip := getIPort s p
  setIPort s p { ip with rejected := sat64 (ip.rejected + 1) }

/-- The sideband that a line of a slot gives a token of a STREAM port (R37); a MARK of a type that no program may supply gives none
(R231). -/
def streamSide (off : Nat) (pay : Line) : Option (BitVec 24) :=
  let ty := bitsN pay 0 4
  if decide (off < 0x800) then some (Sb.mk 0 true true false false false false 1)
  else if decide (off < 0xC00) then
    (if ty == 0 || ty == 5 || decide (7 ≤ ty) then none else some (Sb.mk 2 true true false (ty == 1) false false 0))
  else some (Sb.mk 1 true true false false false false 1)

/-- A host message on a slot that is bound to port p (R37, R39, R40). DESIGN CHOICE (log 50): a write longer than 64 bytes, of which R37 says
nothing, is discarded and counted like a shorter one. -/
def hostMessage (s : State) (p off : Nat) (data : List Byte) : State :=
  let d := (getIPort s p).desc
  if data.length != 64 || off % 64 != 0 || decide (0xE00 ≤ off) || !Pd.host d then rejectPort s p
  else
    let pay : Line := BitVec.ofNat 512 (ofBytes data)
    if Pd.mode d == 1 then
      (match streamSide off pay with
        | some side => ringArrive s p pay side
        | none => rejectPort s p)
    else portMessage s p pay

/-- A write to an ingress slot (R36): an unbound slot discards it. -/
def slotWrite (s : State) (host : Bool) (slot off : Nat) (data : List Byte) : State :=
  let h := hostPort s host
  let e := h.slots.getD slot 0
  if !Slot.v e then setHostPort s host { h with hostdrop := sat64 (h.hostdrop + 1) }
  else hostMessage s (Slot.port e) off data

/-- HOST_INGRESS_WRITE (R37). -/
def execHostIngressWrite (host : Bool) (slot : BitVec 13) (off : BitVec 12) (data : List Byte) (s : State) : Out' :=
  runStep (fun s => slotWrite s host slot.toNat off.toNat data) s

/-! ### BAR2 (R34, R181, R215) -/

/-- The home key of an offset of BAR2, for n bytes within its size and within HBM. -/
def bar2Key (s : State) (host : Bool) (off : Word) (n : Nat) : Option Nat :=
  let a := (hostPort s host).bar2off.toNat + off.toNat
  if decide (off.toNat + n ≤ 2 ^ (hostPort s host).bar2size) && decide (a + n ≤ Config.hbmBytes) then some (hbmKey (modN s) a) else none

/-- HOST_BAR2_STORE (R181): at most 512 bytes in one write (R34). -/
def execHostBar2Store (host : Bool) (off : Word) (data : List Byte) (s : State) : Out' :=
  runStep (fun s =>
    if decide (512 < data.length) then s
    else match bar2Key s host off data.length with
      | some key => writeBytes s key data
      | none => s) s

/-- HOST_BAR2_LOAD (R181): at most 4096 bytes in one read; a poisoned completion has no data (R215). -/
def execHostBar2Load (host : Bool) (off : Word) (len : BitVec 13) (s : State) : Out' :=
  runStep (fun s =>
    let n := len.toNat
    if n = 0 || decide (4096 < n) then s
    else match bar2Key s host off n with
      | some key => if poisoned s key n then emit s (.data (List.replicate n none)) else emit s (.data ((readBytes s key n).map some))
      | none => emit s (.data (List.replicate n none))) s

/-! ### BAR0 (R35, R36, R48) -/

/-- The bits of RBSEL that a write keeps (R48). -/
def rbselMask : Word := BitVec.ofNat 64 ((2 ^ 15 - 1) * 2 ^ 49 + (2 ^ 32 - 1))

/-- BAR0_REGISTER_WRITE (R35): 8 bytes at an aligned offset. RBSEL, the slot map and the W1C fields of FLSTAT take it (R14, R36); in an
ingress slot it is a message of the wrong length (R37); everything else of the window discards it. -/
def execBar0RegisterWrite (host : Bool) (off : BitVec 26) (val : Word) (s : State) : Out' :=
  runStep (fun s =>
    let a := off.toNat
    let h := hostPort s host
    if decide (a < 0x2000000) then slotWrite s host (a / 4096) (a % 4096) (toBytes val 8)
    else if a % 8 != 0 then s
    else if a == 0x2000010 then setHostPort s host { h with rbsel := val &&& rbselMask }
    else if decide (0x2010100 ≤ a) && decide (a < 0x2010100 + 16 * 0x40) && (a - 0x2010100) % 0x40 == 0 then clearCounters s ((a - 0x2010100) / 0x40) val
    else if decide (0x2030000 ≤ a) && decide (a < 0x2040000) then
      setHostPort s host { h with slots := h.slots.put ((a - 0x2030000) / 8) (val &&& Slot.mask) }
    else s) s

/-- A word of the ingress page (R37): the status area from 0xE00 on, of the port that the slot names; zero elsewhere and while V = 0. -/
def pageWord (s : State) (host : Bool) (slot off : Nat) : Word :=
  let e := (hostPort s host).slots.getD slot 0
  if !Slot.v e then 0
  else
    let ip := getIPort s (Slot.port e)
    match off with
    | 0xE00 => BitVec.ofNat 64 (Pd.arrived ip.desc)
    | 0xE08 => BitVec.ofNat 64 ip.rejected
    | 0xE10 => BitVec.ofNat 64 ip.dropped
    | 0xE18 => BitVec.ofNat 64 (ip.refReason + ip.refCount * 2 ^ 32)
    | _ => 0

/-- The aligned 8-byte word of BAR0 at an offset (R14, R35–R37, R48, R52). The mailbox window's layout is not given: its words are free. -/
def bar0Word (s : State) (host : Bool) (a : Nat) : Word :=
  let h := hostPort s host
  if a < 0x2000000 then pageWord s host (a / 4096) (a % 4096)
  else if a == 0x2000000 then mstatWord s.sec
  else if a == 0x2000008 then h.bar2off
  else if a == 0x2000010 then h.rbsel
  else if a == 0x2000018 then BitVec.ofNat 64 h.hostdrop
  else if decide (0x2010100 ≤ a) && decide (a < 0x2010100 + 16 * 0x40) && (a - 0x2010100) % 0x40 == 0 then flstatWord (getLink s ((a - 0x2010100) / 0x40))
  else if decide (0x2020000 ≤ a) && decide (a < 0x2030000) then Config.freeWord s.free
  else if decide (0x2030000 ≤ a) && decide (a < 0x2040000) then h.slots.getD ((a - 0x2030000) / 8) 0
  else if decide (0x3000000 ≤ a) && decide (a < 0x4000000) then readback s host (a - 0x3000000)
  else 0

/-- The host reads the word of BAR0 that holds an offset (R35). -/
def bar0Read (s : State) (host : Bool) (off : Nat) : State :=
  let a := off / 8 * 8
  if decide (0x4000000 ≤ a) then s
  else emit { s with free := s.free + 1 } (.data ((toBytes (bar0Word s host a) 8).map some))

/-- The host sets the size of its BAR2: a power of two from 1 GiB to 2 TiB (R34). -/
def setBar2Size (s : State) (host : Bool) (n : Nat) : State :=
  if decide (30 ≤ n) && decide (n ≤ 41) then setHostPort s host { hostPort s host with bar2size := n } else s

/-! ### Port descriptors (R39–R41) -/

/-- Whether PORTSET refuses a descriptor for a port that stands as `old` (R39, R40, R56). -/
def portsetBad (s : State) (old d : BitVec 256) : Bool :=
  decide (12 < bitsN d 64 4) || !(Pd.policy d == 0 || Pd.policy d == 2 || Pd.policy d == 4)
    || (Pd.policy d == 4 && (Pd.k d == 0 || decide (8 < Pd.k d))) || decide (3 < Pd.mode d) || bitsN d 32 11 != 0
    || (Pd.rbase d).toNat % 64 != 0 || (Pd.caddr d).toNat % 16 != 0
    || (Pd.mode d != 0 && (Pd.caddr d == 0 || Pd.rbase d == 0))
    || (Pd.mode d != 0 && Pd.mode old != 0)
    || (s.sec.lcs == .retired && Pd.mode d != 0)

/-- A descriptor with the read-only fields of another one: ARRIVED and CFGID (R39). -/
def keepCounts (d : BitVec 256) (arrived cfgid : Nat) : BitVec 256 := setBits (setBits d 80 48 arrived) 0 32 cfgid

/-- The port after an accepted PORTSET (R40–R42). -/
def portAfter (ip : IPort) (d : BitVec 256) : IPort :=
  if Pd.mode d = 0 then
    { ip with desc := keepCounts d (Pd.arrived ip.desc) (Pd.cfgid ip.desc), was := if Pd.mode ip.desc = 0 then ip.was else ip.desc }
  else
    { ip with desc := keepCounts d 0 0, was := 0, entry := 0, engaged := false, phase := 0, lfsr := 1, keep := 0, gaps := []
              part := [], team := none, discard := false }

/-- PORTSET (R39–R42). -/
def execPortset (die : DieId) (port : BitVec 11) (desc : BitVec 256) (s : State) : Out' :=
  runStep (fun s =>
    let p := die.toNat * 2048 + port.toNat
    let ip := getIPort s p
    if portsetBad s ip.desc desc then refuse s "PORTSET" "REFUSED"
    else reply (setIPort s p (portAfter ip desc)) "PORTSET") s

/-- PORTGET (R39). -/
def execPortget (die : DieId) (port : BitVec 11) (s : State) : Out' :=
  runStep (fun s => reply s "PORTGET" (splitWords (getIPort s (die.toNat * 2048 + port.toNat)).desc 4)) s

/-! ### Streams (R43) -/

def setCfgid (ip : IPort) (id : Nat) : IPort :=
  { ip with desc := setBits ip.desc 0 32 id, was := if Pd.mode ip.desc = 0 then setBits ip.was 0 32 id else ip.was }

/-- Tokens of a stream that reach no channel (R43). -/
def streamDrop (s : State) (p n : Nat) : State :=
  let ip := getIPort s p
  setIPort s p { ip with dropped := sat64 (ip.dropped + n) }

def isEnd (pay : Line) (side : BitVec 24) : Bool := Sb.isMark side && bitsN pay 0 4 == 2

/-- The stream of a port is over. -/
def streamOver (s : State) (p : Nat) : State :=
  setIPort s p (setCfgid { getIPort s p with team := none, discard := false, part := [] } 0)

/-- A token while no stream runs, or while one is discarded (R43): the first DATA token is a launch packet; a
refused one is the first token of the discarded stream. -/
def streamStart (s : State) (p : Nat) (c : Space) (pay : Line) (side : BitVec 24) : State :=
  let ip := getIPort s p
  let gap := Sb.isMark side && bitsN pay 0 4 == 1
  if ip.discard then
    let s := if gap then s else streamDrop s p 1
    if isEnd pay side then streamOver s p else s
  else if Sb.kind side != 0 then (if gap then s else streamDrop s p 1)
  else match launchFrom s p c pay with
    | (some id, s) => setIPort s p (setCfgid { getIPort s p with team := some id } (Lp.cfgid pay).toNat)
    | (none, s) => let s := streamDrop s p 1; setIPort s p { getIPort s p with discard := true }

/-- The team's entry channel (R43, R256). -/
def entryChannel (s : State) (id : Nat) : Option (Nat × Chan) := s.chans.cells.find? (fun c => c.2.live && c.2.prod == 2 && c.2.team == id)

/-- A token of a running stream joins the entry channel: records are made of PRL tokens, H on the first and T on the last, and all of
them bear the weight of the first (R230). A marker within a record discards the part before it. -/
def streamPass (s : State) (p id : Nat) (pay : Line) (side : BitVec 24) : State :=
  let ip := getIPort s p
  match entryChannel s id with
  | none => streamDrop s p 1
  | some ch =>
    if Sb.isMark side then
      let s := streamDrop s p ip.part.length
      emitRecord (setIPort s p { getIPort s p with part := [] }) ch.1 [⟨pay, side⟩]
    else
      let prl := Head.prl ch.2.head
      let w := match ip.part with | (_, f) :: _ => Sb.w f | [] => Sb.w side
      let last := decide (prl ≤ ip.part.length + 1)
      let part := ip.part ++ [(pay, Sb.mk (Sb.kind side) ip.part.isEmpty last false false false false w)]
      if last then emitRecord (setIPort s p { ip with part := [] }) ch.1 (part.map (fun q => ⟨q.1, q.2⟩))
      else setIPort s p { ip with part := part }

/-- STREAM_TOKEN_MOVE (R43): the oldest entry of a STREAM port's ring. -/
def execStreamTokenMove (die : DieId) (port : BitVec 11) (s : State) : Out' :=
  runStep (fun s =>
    let p := die.toNat * 2048 + port.toNat
    let ip := getIPort s p
    match Pd.mode ip.live == 1 && s.sec.ready, portSpace s ip.live, ringTake s p with
    | true, some c, some x =>
      match ip.team with
      | none => if launchRoom s || ip.discard then streamStart x.2.2 p c x.1 x.2.1 else s
      | some id =>
        let t := getTeam s id
        if t.state == .retired || t.state == .killed || t.state == .retiring then
          (let s := if Sb.isMark x.2.1 && bitsN x.1 0 4 == 1 then x.2.2 else streamDrop x.2.2 p 1
           if isEnd x.1 x.2.1 then streamOver s p else s)
        else if t.state != .running || t.leave.closed then s
        else
          let s := streamPass x.2.2 p id x.1 x.2.1
          if isEnd x.1 x.2.1 then streamOver s p else s
    | _, _, _ => s) s

end Sys2Proof.Machine
end

