-- ==== Sys2Proof/Machine/Dispatch.lean ====
section
/-! DEFINITION. One arm per row of the opcode table: the meaning of each step. -/

namespace Sys2Proof.Machine

def exec (i : Instr) (s : State) : Host.Outcome State Fault Refusal :=
  match i with
  | .add x0 x1 x2 x3 => Sys2Proof.Machine.execAdd x0 x1 x2 x3 s
  | .sub x0 x1 x2 x3 => Sys2Proof.Machine.execSub x0 x1 x2 x3 s
  | .and x0 x1 x2 => Sys2Proof.Machine.execAnd x0 x1 x2 s
  | .or x0 x1 x2 => Sys2Proof.Machine.execOr x0 x1 x2 s
  | .xor x0 x1 x2 => Sys2Proof.Machine.execXor x0 x1 x2 s
  | .sll x0 x1 x2 x3 => Sys2Proof.Machine.execSll x0 x1 x2 x3 s
  | .srl x0 x1 x2 x3 => Sys2Proof.Machine.execSrl x0 x1 x2 x3 s
  | .sra x0 x1 x2 x3 => Sys2Proof.Machine.execSra x0 x1 x2 x3 s
  | .slt x0 x1 x2 => Sys2Proof.Machine.execSlt x0 x1 x2 s
  | .sltw x0 x1 x2 => Sys2Proof.Machine.execSltw x0 x1 x2 s
  | .min x0 x1 x2 => Sys2Proof.Machine.execMin x0 x1 x2 s
  | .max x0 x1 x2 => Sys2Proof.Machine.execMax x0 x1 x2 s
  | .mul x0 x1 x2 x3 => Sys2Proof.Machine.execMul x0 x1 x2 x3 s
  | .mulh x0 x1 x2 => Sys2Proof.Machine.execMulh x0 x1 x2 s
  | .div x0 x1 x2 x3 => Sys2Proof.Machine.execDiv x0 x1 x2 x3 s
  | .divw x0 x1 x2 x3 => Sys2Proof.Machine.execDivw x0 x1 x2 x3 s
  | .rem x0 x1 x2 x3 => Sys2Proof.Machine.execRem x0 x1 x2 x3 s
  | .remw x0 x1 x2 x3 => Sys2Proof.Machine.execRemw x0 x1 x2 x3 s
  | .addi x0 x1 x2 => Sys2Proof.Machine.execAddi x0 x1 x2 s
  | .andi x0 x1 x2 => Sys2Proof.Machine.execAndi x0 x1 x2 s
  | .ori x0 x1 x2 => Sys2Proof.Machine.execOri x0 x1 x2 s
  | .xori x0 x1 x2 => Sys2Proof.Machine.execXori x0 x1 x2 s
  | .slti x0 x1 x2 => Sys2Proof.Machine.execSlti x0 x1 x2 s
  | .sltiw x0 x1 x2 => Sys2Proof.Machine.execSltiw x0 x1 x2 s
  | .slli x0 x1 x2 => Sys2Proof.Machine.execSlli x0 x1 x2 s
  | .srli x0 x1 x2 => Sys2Proof.Machine.execSrli x0 x1 x2 s
  | .srai x0 x1 x2 => Sys2Proof.Machine.execSrai x0 x1 x2 s
  | .lui x0 x1 => Sys2Proof.Machine.execLui x0 x1 s
  | .ori16 x0 x1 x2 => Sys2Proof.Machine.execOri16 x0 x1 x2 s
  | .ori32 x0 x1 x2 => Sys2Proof.Machine.execOri32 x0 x1 x2 s
  | .ori48 x0 x1 x2 => Sys2Proof.Machine.execOri48 x0 x1 x2 s
  | .pcadd x0 x1 => Sys2Proof.Machine.execPcadd x0 x1 s
  | .beq x0 x1 x2 => Sys2Proof.Machine.execBeq x0 x1 x2 s
  | .bne x0 x1 x2 => Sys2Proof.Machine.execBne x0 x1 x2 s
  | .blt x0 x1 x2 => Sys2Proof.Machine.execBlt x0 x1 x2 s
  | .bge x0 x1 x2 => Sys2Proof.Machine.execBge x0 x1 x2 s
  | .bltw x0 x1 x2 => Sys2Proof.Machine.execBltw x0 x1 x2 s
  | .bgew x0 x1 x2 => Sys2Proof.Machine.execBgew x0 x1 x2 s
  | .j x0 => Sys2Proof.Machine.execJ x0 s
  | .jal x0 => Sys2Proof.Machine.execJal x0 s
  | .jalr x0 x1 x2 => Sys2Proof.Machine.execJalr x0 x1 x2 s
  | .mfs x0 x1 => Sys2Proof.Machine.execMfs x0 x1 s
  | .mts x0 x1 => Sys2Proof.Machine.execMts x0 x1 s
  | .tvecWrite x0 => Sys2Proof.Machine.execTvecWrite x0 s
  | .tframeWrite x0 => Sys2Proof.Machine.execTframeWrite x0 s
  | .tstatusWrite x0 => Sys2Proof.Machine.execTstatusWrite x0 s
  | .gaitfloorWrite x0 => Sys2Proof.Machine.execGaitfloorWrite x0 s
  | .quotaWrite x0 => Sys2Proof.Machine.execQuotaWrite x0 s
  | .lrmapWrite x0 x1 => Sys2Proof.Machine.execLrmapWrite x0 x1 s
  | .ld x0 x1 x2 x3 => Sys2Proof.Machine.execLd x0 x1 x2 x3 s
  | .ldWhW x0 x1 x2 => Sys2Proof.Machine.execLdWhW x0 x1 x2 s
  | .ldWhH x0 x1 x2 => Sys2Proof.Machine.execLdWhH x0 x1 x2 s
  | .ldWhB x0 x1 x2 => Sys2Proof.Machine.execLdWhB x0 x1 x2 s
  | .st x0 x1 x2 x3 => Sys2Proof.Machine.execSt x0 x1 x2 x3 s
  | .carterStart x0 x1 x2 => Sys2Proof.Machine.execCarterStart x0 x1 x2 s
  | .amo x0 x1 x2 x3 x4 x5 x6 x7 => Sys2Proof.Machine.execAmo x0 x1 x2 x3 x4 x5 x6 x7 s
  | .cas x0 x1 x2 x3 x4 x5 x6 => Sys2Proof.Machine.execCas x0 x1 x2 x3 x4 x5 x6 s
  | .phase x0 x1 => Sys2Proof.Machine.execPhase x0 x1 s
  | .waitge x0 x1 x2 x3 => Sys2Proof.Machine.execWaitge x0 x1 x2 x3 s
  | .bar x0 x1 x2 => Sys2Proof.Machine.execBar x0 x1 x2 s
  | .lock x0 x1 x2 => Sys2Proof.Machine.execLock x0 x1 x2 s
  | .unlock x0 x1 x2 => Sys2Proof.Machine.execUnlock x0 x1 x2 s
  | .tether x0 x1 x2 => Sys2Proof.Machine.execTether x0 x1 x2 s
  | .untether x0 => Sys2Proof.Machine.execUntether x0 s
  | .cwait x0 x1 => Sys2Proof.Machine.execCwait x0 x1 s
  | .cmd x0 x1 => Sys2Proof.Machine.execCmd x0 x1 s
  | .cmdr x0 x1 x2 => Sys2Proof.Machine.execCmdr x0 x1 x2 s
  | .portrd x0 x1 x2 => Sys2Proof.Machine.execPortrd x0 x1 x2 s
  | .portwr x0 x1 x2 => Sys2Proof.Machine.execPortwr x0 x1 x2 s
  | .enq x0 x1 x2 => Sys2Proof.Machine.execEnq x0 x1 x2 s
  | .rsend x0 x1 x2 => Sys2Proof.Machine.execRsend x0 x1 x2 s
  | .rrecv x0 x1 x2 => Sys2Proof.Machine.execRrecv x0 x1 x2 s
  | .launch x0 x1 => Sys2Proof.Machine.execLaunch x0 x1 s
  | .strand x0 x1 x2 x3 => Sys2Proof.Machine.execStrand x0 x1 x2 x3 s
  | .taskend => Sys2Proof.Machine.execTaskend s
  | .teamend => Sys2Proof.Machine.execTeamend s
  | .release x0 x1 => Sys2Proof.Machine.execRelease x0 x1 s
  | .gait x0 x1 x2 => Sys2Proof.Machine.execGait x0 x1 x2 s
  | .fscan x0 x1 x2 => Sys2Proof.Machine.execFscan x0 x1 x2 s
  | .fsig x0 x1 => Sys2Proof.Machine.execFsig x0 x1 s
  | .trap x0 x1 x2 => Sys2Proof.Machine.execTrap x0 x1 x2 s
  | .rte => Sys2Proof.Machine.execRte s
  | .yield => Sys2Proof.Machine.execYield s
  | .bkpt => Sys2Proof.Machine.execBkpt s
  | .asyncCauseDelivery x0 x1 => Sys2Proof.Machine.execAsyncCauseDelivery x0 x1 s
  | .waitgeSatisfied x0 x1 => Sys2Proof.Machine.execWaitgeSatisfied x0 x1 s
  | .barReleaseSeen x0 x1 => Sys2Proof.Machine.execBarReleaseSeen x0 x1 s
  | .cwaitComplete x0 x1 => Sys2Proof.Machine.execCwaitComplete x0 x1 s
  | .portrdWake x0 x1 => Sys2Proof.Machine.execPortrdWake x0 x1 s
  | .bind x0 x1 => Sys2Proof.Machine.execBind x0 x1 s
  | .feed x0 x1 x2 x3 x4 x5 => Sys2Proof.Machine.execFeed x0 x1 x2 x3 x4 x5 s
  | .feedToken x0 x1 => Sys2Proof.Machine.execFeedToken x0 x1 s
  | .drain x0 x1 x2 x3 x4 => Sys2Proof.Machine.execDrain x0 x1 x2 x3 x4 s
  | .drainToken x0 x1 => Sys2Proof.Machine.execDrainToken x0 x1 s
  | .cfg x0 x1 x2 => Sys2Proof.Machine.execCfg x0 x1 x2 s
  | .cfgtok x0 x1 x2 x3 => Sys2Proof.Machine.execCfgtok x0 x1 x2 x3 s
  | .arm x0 x1 x2 => Sys2Proof.Machine.execArm x0 x1 x2 s
  | .start x0 x1 => Sys2Proof.Machine.execStart x0 x1 s
  | .barrier => Sys2Proof.Machine.execBarrier s
  | .accrst x0 x1 x2 => Sys2Proof.Machine.execAccrst x0 x1 x2 s
  | .mark x0 x1 x2 x3 => Sys2Proof.Machine.execMark x0 x1 x2 x3 s
  | .shed x0 x1 x2 x3 x4 => Sys2Proof.Machine.execShed x0 x1 x2 x3 x4 s
  | .couple x0 x1 x2 => Sys2Proof.Machine.execCouple x0 x1 x2 s
  | .switch x0 x1 => Sys2Proof.Machine.execSwitch x0 x1 s
  | .contextSwitchComplete x0 x1 => Sys2Proof.Machine.execContextSwitchComplete x0 x1 s
  | .tmpl x0 x1 => Sys2Proof.Machine.execTmpl x0 x1 s
  | .redtree x0 x1 x2 x3 x4 => Sys2Proof.Machine.execRedtree x0 x1 x2 x3 x4 s
  | .close x0 x1 => Sys2Proof.Machine.execClose x0 x1 s
  | .quiesce x0 x1 => Sys2Proof.Machine.execQuiesce x0 x1 s
  | .save x0 x1 => Sys2Proof.Machine.execSave x0 x1 s
  | .restore x0 x1 => Sys2Proof.Machine.execRestore x0 x1 s
  | .resume x0 x1 x2 => Sys2Proof.Machine.execResume x0 x1 x2 s
  | .watchset x0 x1 x2 => Sys2Proof.Machine.execWatchset x0 x1 x2 s
  | .actorFiring x0 x1 => Sys2Proof.Machine.execActorFiring x0 x1 s
  | .markerStep x0 x1 => Sys2Proof.Machine.execMarkerStep x0 x1 s
  | .joinGapStep x0 x1 => Sys2Proof.Machine.execJoinGapStep x0 x1 s
  | .joinEnd x0 x1 => Sys2Proof.Machine.execJoinEnd x0 x1 s
  | .memnodeResponse x0 x1 => Sys2Proof.Machine.execMemnodeResponse x0 x1 s
  | .recordArrive x0 x1 => Sys2Proof.Machine.execRecordArrive x0 x1 s
  | .spillMove x0 x1 => Sys2Proof.Machine.execSpillMove x0 x1 s
  | .extRingMove x0 x1 => Sys2Proof.Machine.execExtRingMove x0 x1 s
  | .reinsTick x0 => Sys2Proof.Machine.execReinsTick x0 s
  | .drawInterval => Sys2Proof.Machine.execDrawInterval s
  | .gaitSwitchComplete x0 x1 => Sys2Proof.Machine.execGaitSwitchComplete x0 x1 s
  | .wakeSlot x0 => Sys2Proof.Machine.execWakeSlot x0 s
  | .tileSeesRelease x0 x1 => Sys2Proof.Machine.execTileSeesRelease x0 x1 s
  | .tetherWalk => Sys2Proof.Machine.execTetherWalk s
  | .priorityPropagate => Sys2Proof.Machine.execPriorityPropagate s
  | .ostlerSelection => Sys2Proof.Machine.execOstlerSelection s
  | .dependenceCheck x0 => Sys2Proof.Machine.execDependenceCheck x0 s
  | .imageFetch x0 x1 => Sys2Proof.Machine.execImageFetch x0 x1 s
  | .teamLoad x0 x1 x2 x3 => Sys2Proof.Machine.execTeamLoad x0 x1 x2 x3 s
  | .retireComplete x0 => Sys2Proof.Machine.execRetireComplete x0 s
  | .taskDeal x0 => Sys2Proof.Machine.execTaskDeal x0 s
  | .jobCardEnd x0 => Sys2Proof.Machine.execJobCardEnd x0 s
  | .preemptQuiescence x0 => Sys2Proof.Machine.execPreemptQuiescence x0 s
  | .preemptLimitExpire x0 => Sys2Proof.Machine.execPreemptLimitExpire x0 s
  | .kill x0 => Sys2Proof.Machine.execKill x0 s
  | .killComplete x0 => Sys2Proof.Machine.execKillComplete x0 s
  | .killstuck x0 => Sys2Proof.Machine.execKillstuck x0 s
  | .hitchGate x0 x1 => Sys2Proof.Machine.execHitchGate x0 x1 s
  | .hitchReady x0 x1 x2 x3 => Sys2Proof.Machine.execHitchReady x0 x1 x2 x3 s
  | .hitchLateCheck x0 => Sys2Proof.Machine.execHitchLateCheck x0 s
  | .hitchStart x0 => Sys2Proof.Machine.execHitchStart x0 s
  | .carterCopyBegin x0 x1 => Sys2Proof.Machine.execCarterCopyBegin x0 x1 s
  | .carterLine x0 x1 => Sys2Proof.Machine.execCarterLine x0 x1 s
  | .carterComplete x0 x1 => Sys2Proof.Machine.execCarterComplete x0 x1 s
  | .pageWalkComplete x0 x1 => Sys2Proof.Machine.execPageWalkComplete x0 x1 s
  | .redContributionArrive x0 x1 => Sys2Proof.Machine.execRedContributionArrive x0 x1 s
  | .redNodeTimeout x0 x1 => Sys2Proof.Machine.execRedNodeTimeout x0 x1 s
  | .c0Arrival x0 => Sys2Proof.Machine.execC0Arrival x0 s
  | .streamTokenMove x0 x1 => Sys2Proof.Machine.execStreamTokenMove x0 x1 s
  | .c1PacketLand x0 => Sys2Proof.Machine.execC1PacketLand x0 s
  | .c3AtomicPerform x0 => Sys2Proof.Machine.execC3AtomicPerform x0 s
  | .c4PacketLand x0 => Sys2Proof.Machine.execC4PacketLand x0 s
  | .packetForward x0 => Sys2Proof.Machine.execPacketForward x0 s
  | .ackReceive x0 x1 x2 x3 => Sys2Proof.Machine.execAckReceive x0 x1 x2 x3 s
  | .flitReceive x0 x1 x2 x3 x4 x5 => Sys2Proof.Machine.execFlitReceive x0 x1 x2 x3 x4 x5 s
  | .laneFail x0 x1 => Sys2Proof.Machine.execLaneFail x0 x1 s
  | .linkTrained x0 x1 x2 => Sys2Proof.Machine.execLinkTrained x0 x1 x2 s
  | .flstatEnable x0 x1 => Sys2Proof.Machine.execFlstatEnable x0 x1 s
  | .flstatCounterClear x0 x1 => Sys2Proof.Machine.execFlstatCounterClear x0 x1 s
  | .moduleIdWrite x0 => Sys2Proof.Machine.execModuleIdWrite x0 s
  | .hostIngressWrite x0 x1 x2 x3 => Sys2Proof.Machine.execHostIngressWrite x0 x1 x2 x3 s
  | .hostBar2Store x0 x1 x2 => Sys2Proof.Machine.execHostBar2Store x0 x1 x2 s
  | .hostBar2Load x0 x1 x2 => Sys2Proof.Machine.execHostBar2Load x0 x1 x2 s
  | .bar0RegisterWrite x0 x1 x2 => Sys2Proof.Machine.execBar0RegisterWrite x0 x1 x2 s
  | .portset x0 x1 x2 => Sys2Proof.Machine.execPortset x0 x1 x2 s
  | .portget x0 x1 => Sys2Proof.Machine.execPortget x0 x1 s
  | .imgreg x0 x1 x2 => Sys2Proof.Machine.execImgreg x0 x1 x2 s
  | .fwload x0 => Sys2Proof.Machine.execFwload x0 s
  | .measext x0 x1 => Sys2Proof.Machine.execMeasext x0 x1 s
  | .attestRequest x0 x1 => Sys2Proof.Machine.execAttestRequest x0 x1 s
  | .attestReport => Sys2Proof.Machine.execAttestReport s
  | .deploy => Sys2Proof.Machine.execDeploy s
  | .retire x0 => Sys2Proof.Machine.execRetire x0 s
  | .dbgnonce x0 => Sys2Proof.Machine.execDbgnonce x0 s
  | .dbgunlock x0 x1 x2 x3 => Sys2Proof.Machine.execDbgunlock x0 x1 x2 x3 s
  | .tlbinv x0 x1 x2 => Sys2Proof.Machine.execTlbinv x0 x1 x2 s
  | .tlbinvComplete => Sys2Proof.Machine.execTlbinvComplete s
  | .curbset x0 x1 => Sys2Proof.Machine.execCurbset x0 x1 s
  | .budgetset x0 => Sys2Proof.Machine.execBudgetset x0 s
  | .quotagrant x0 x1 => Sys2Proof.Machine.execQuotagrant x0 x1 s
  | .tsavearea x0 => Sys2Proof.Machine.execTsavearea x0 s
  | .plimset x0 => Sys2Proof.Machine.execPlimset x0 s
  | .hitchset x0 x1 x2 => Sys2Proof.Machine.execHitchset x0 x1 x2 s
  | .svlaunch x0 => Sys2Proof.Machine.execSvlaunch x0 s
  | .dattach x0 x1 => Sys2Proof.Machine.execDattach x0 x1 s
  | .ddetach x0 x1 => Sys2Proof.Machine.execDdetach x0 x1 s
  | .dstop x0 x1 => Sys2Proof.Machine.execDstop x0 x1 s
  | .dss x0 x1 x2 => Sys2Proof.Machine.execDss x0 x1 x2 s
  | .drun x0 x1 => Sys2Proof.Machine.execDrun x0 x1 s
  | .i3cRequest x0 x1 => Sys2Proof.Machine.execI3cRequest x0 x1 s
  | .coldReset => Sys2Proof.Machine.execColdReset s
  | .regionPowerUp x0 => Sys2Proof.Machine.execRegionPowerUp x0 s
  | .thermalSample x0 x1 => Sys2Proof.Machine.execThermalSample x0 x1 s
  | .thermalCooldown x0 => Sys2Proof.Machine.execThermalCooldown x0 s
  | .powerLoss => Sys2Proof.Machine.execPowerLoss s
  | .farrierPatternBoundary x0 x1 x2 => Sys2Proof.Machine.execFarrierPatternBoundary x0 x1 x2 s
  | .provisioning x0 x1 => Sys2Proof.Machine.execProvisioning x0 x1 s
  | .faultForward x0 x1 x2 => Sys2Proof.Machine.execFaultForward x0 x1 x2 s
  | .routeTableWrite x0 x1 x2 x3 => Sys2Proof.Machine.execRouteTableWrite x0 x1 x2 x3 s
  | .hitchPreemption x0 => Sys2Proof.Machine.execHitchPreemption x0 s

end Sys2Proof.Machine
end

