-- ==== Sys2Proof/Machine/Turns.lean ====
section
/-! DEFINITION. The turns of the schedule (log 4): what the implementation and the world may do between instructions, which turn comes
when the schedule names none, and where an instruction is laid for the next step (log 3). -/

namespace Sys2Proof.Machine

/-! ### The clock -/

/-- Regions that hold a strand. -/
def strandRegions (s : State) : List Nat := s.strands.cells.map (fun c => c.1 / 4)

/-- Whether the clock may advance by n: every Drover with a READY strand issues on every clock, so none is passed over (R68, R75), and what falls
on a clock comes on it (R117, R143, R150, R359). -/
def mayTick (s : State) (n : Nat) : Bool :=
  !(strandRegions s).any (owesIssue s) && (owedEvent s).isNone
    && (decide (n ≤ 1) || (!(strandRegions s).any (fun r => (nextStrand s r).isSome) && stillFor s n))

/-- Whether a load executes in a region (R227). -/
def Region.loads (g : Region) : Bool := g.cmds.queues.vals.any (fun l => l.any (·.loading)) || g.cmds.atOnce.any (·.loading)

/-- The clock advances: the words of firings that end by then have made their accesses (R339), the SHEDs that wait take effect (R143), and the
open phases of a region in which a load executes count it once (R227). -/
def tick (s : State) (n : Nat) : State :=
  let now := s.clock + n
  let s := settleSheds (sliceTick s now)
  let rs := (s.regions.cells.filter (fun c => c.2.loads)).map (·.1)
  let s := rs.foldl (fun s r => (List.range 4).foldl (fun s x => updPhase s r x (fun p => { p with load := p.load + n })) s) s
  { s with clock := now }

/-! ### Stores and snapshots -/

/-- A pending store is performed at its home; stores of one strand to one address stay in program order (R174). -/
def performTurn (s : State) (i k : Nat) : State :=
  let st := getStrand s i
  match st.view.stores[k]? with
  | some p =>
    if p.sent || (st.view.stores.take k).any (fun e => !e.sent && overlaps e.key e.bytes.length p.key p.bytes.length) then s
    else
      let s := performParts s (fun x => x.strand == i && overlaps x.key x.bytes.length p.key p.bytes.length)
      performBytes (updStrand s i (fun st => { st with view := { st.view with stores := st.view.stores.eraseIdx k } })) i p.key p.bytes p.acq
  | none => s

/-- The aligned 8 bytes that hold a byte are bound in a strand's snapshot before a load reads any of them (R171, R173). -/
def bindTurn (s : State) (r i key : Nat) : State :=
  let ks := (List.range 8).map (key / 8 * 8 + ·)
  if ks.any (fun k => ((getStrand s i).view.snap.getD k {}).read) then s
  else
    let s := ks.foldl (fun s k => seen s r (some i) k 1) s
    updStrand s i (fun st => { st with view := { st.view with snap := ks.foldl (fun m k => m.put k { (m.getD k {}) with mem := some (readByte s k) }) st.view.snap } })

/-- A store released at a narrow scope is performed, with those of its strand that it overlaps (R172, R174). -/
def settleTurn (s : State) (k : Nat) : State :=
  match s.part[k]? with
  | some p => performParts s (· == p)
  | none => s

/-- A TLB entry of a die and of its regions is evicted (R160). -/
def evictTurn (s : State) (die tag page : Nat) : State :=
  let keep (l : List Tlb) : List Tlb := l.filter (fun e => !(e.tag == tag && e.page == page))
  { s with trans := { s.trans with
      tlb := s.trans.tlb.put die (keep (s.trans.tlb.getD die []))
      micro := s.trans.micro.mapVals (fun r l => if regionDie r == die then keep l else l) } }

/-! ### Egress to another module (R142) -/

/-- The packet that a branch's egress sends a record or marker in: C1 when POL is TRAP or SPILL, else C4, whose address beat holds the number of
the record in [47:0] and the weight that came before it in [127:64]; the tokens' sidebands go with them, and the place it goes to is of the
implementation (DESIGN CHOICE: R18 gives neither places nor sidebands; log 52). -/
def egressPacket (s : State) (ch br : Nat) (c : Chan) (b : Branch) (i : Item) : Packet × State :=
  let goal := Config.egressTo ch br
  let bulk := decide (Br.pol b.word ≤ 1)
  let n := if bulk then (0, s) else takeSeq s (2 ^ 60 + ch)
  let tgt := if bulk then 0 else goal.2.2.1.toNat
  let hdr := mkHdr goal.1.toNat goal.2.1.toNat tgt (modN s) (c.preg * 4) (if bulk then 1 else 4) (getTeam s c.team).atag n.1 i.toks.length 0
  let addr := if bulk then goal.2.2.2.toNat else i.seq + sat64 i.cum * 2 ^ 64
  ({ hdr := hdr, addr := BitVec.ofNat 512 addr, pay := i.toks.map (·.pay), side := i.toks.map (·.side) }, n.2)

/-- An egress sends one record or marker. -/
def egressOne (s : State) (ch br : Nat) (i : Item) : State :=
  let x := egressPacket s ch br (getChan s ch) (getBranch s ch br) i
  let s := updBranch (inject x.2 x.1) ch br (fun b => { b with sent := b.sent + 1 })
  updTeam s (getChan s ch).team (fun t => { t with flying := t.flying + 1 })

/-- The egress of a remote branch sends what stands at the head of its buffer. The gaps before it go as GAP markers in C1; in C4 the numbers and
weights of the packets tell of them (R27, R142; log 52). -/
def egressSend (s : State) (ch br : Nat) : State :=
  let b := getBranch s ch br
  match b.buf with
  | i :: _ =>
    if !b.remote || !s.fab.written || (Config.egressTo ch br).1 == s.fab.modId || !b.mayAct s.clock 1 then s
    else
      let s := if decide (Br.pol b.word ≤ 1) then i.gaps.foldl (fun s g => egressOne s ch br { toks := [gapTok g], mark := true }) s else s
      releaseCheck (popItem (egressOne s ch br i) ch br) ch br
  | [] => s

/-! ### Turns -/

/-- A turn that is no instruction: what the implementation and the world may do between steps (log 4). -/
def quietTurn (s : State) : Turn → State
  | .tick n => if mayTick s n then tick s n else s
  | .perform r t k => performTurn s (sid r t) k
  | .bind r t key => bindTurn s r.toNat (sid r t) key
  | .settle k => settleTurn s k
  | .frame r t => if dueReady (getStrand s (sid r t)) then deliverDue s (sid r t) else s
  | .defer r t on => updStrand (if on then s else performAll s (sid r t)) (sid r t) (fun st => { st with view := { st.view with defer := on } })
  | .evict die tag page => evictTurn s die.toNat tag page
  | .firmware r t v => firmwareReturn s r t v
  | .world key data => if key / 2 ^ 48 == modN s then s else writeBytes s key data
  | .parity r t g again => updStrand s (sid r t) (fun st => if g = 0 then st else { st with badpar := (g, again) :: st.badpar })
  | .poison key => { s with poison := (key / 8 * 8) :: s.poison }
  | .corrected die hbm => updDie s die.toNat (fun d => { d with corr := d.corr.put (if hbm then 1 else 0) (sat64 (d.corr.getD (if hbm then 1 else 0) 0 + 1)) })
  | .sent n => sendFlits s n
  | .acked n => setLink s n { getLink s n with unacked := (getLink s n).unacked.tail }
  | .replay n => replayFlits s n
  | .train n => startTraining s n
  | .egress ch br => egressSend s ch br
  | .clearTether => { s with teth := { s.teth with tovf := 0, tlong := 0, knots := 0 } }
  | .clearBlock r => updRegion s r.toNat (fun g => { g with ctrs := {} })
  | .bar2off host v => setHostPort s host { hostPort s host with bar2off := v }
  | .bar2size host n => setBar2Size s host n
  | .bar0Read host off => bar0Read s host off.toNat
  | .load r q => beginLoad s r.toNat q
  | .slice r tile n => sliceTurn s r.toNat tile.toNat n
  | .issue _ _ | .event _ | .command _ _ | .ahead _ _ | .land _ _ => s

/-- Without a schedule: an acknowledged request, a trap whose frame waits for none, a pending async cause, else the next Drover of this
clock, else what else falls on this clock, else the next clock. -/
def defaultTurn (s : State) : Turn :=
  match s.strands.cells.find? (fun c => (takeReq c.2.sent).isSome) with
  | some c => .land (BitVec.ofNat 7 (c.1 / 4)) (BitVec.ofNat 2 (c.1 % 4))
  | none =>
  match s.strands.cells.find? (fun c => c.2.traps.due.isSome && c.2.live.all (·.over)) with
  | some c => .frame (BitVec.ofNat 7 (c.1 / 4)) (BitVec.ofNat 2 (c.1 % 4))
  | none =>
  match s.strands.cells.find? (fun c => asyncReady s c.1) with
  | some c => .event (.asyncCauseDelivery (BitVec.ofNat 7 (c.1 / 4)) (BitVec.ofNat 2 (c.1 % 4)))
  | none =>
    let rs := (s.strands.cells.map (fun c => c.1 / 4)).filter (owesIssue s)
    let after : Turn := match owedEvent s with | some i => .event i | none => .tick 1
    match rs with
    | [] => after
    | r :: rest =>
      let r := rest.foldl min r
      match nextStrand s r with
      | some t => .issue (BitVec.ofNat 7 r) (BitVec.ofNat 2 t)
      | none => after

/-- Whether a constructor is a step of its own, not an instruction or a command that is fetched. -/
def isEvent (i : Instr) : Bool :=
  (encode i).isNone && (encodeCmd i).isNone && (match i with | .carterStart _ _ _ => false | _ => true)

/-- Whether a step may be taken: nothing runs without power but the reset that follows its return (R51, R108, R109). -/
def awake (s : State) : Bool := s.power.powered || s.schedule.head? == some (.event .coldReset)

/-- The next turn, prepared. -/
def prepare (s : State) : Prep :=
  let turn := s.schedule.headD (defaultTurn s)
  let s := { s with schedule := s.schedule.tail }
  match turn with
  | .issue r t => issueFor s r t
  | .ahead r t => issueAhead s r t
  | .land r t => landReq s r t
  | .command r q => beginCommand s r q
  | .event i => if isEvent i then .run i s else .done (.next s)
  | t => .done (runStep (fun s => quietTurn s t) s)

/-- Where `placeWord` puts an instruction: an HBM address of this module. -/
def placeAddr : Nat := 0x10000

/-- Lay a Drover word where the first strand of region 0 fetches next, or a command at the head of region 0's queue (log 3). -/
def placeWord (s : State) (nbits w : Nat) : State :=
  if nbits ≤ 32 then
    let key := hbmKey (modN s) placeAddr
    let st := getStrand s 0
    let s := updRegion s 0 (fun g => { g with turn := 3, issued := none })
    let s := { s with teams := s.teams.mapVals (fun _ t => if t.holds 0 then { t with leave := { t.leave with closed := false } } else t) }
    let s := setStrand s 0 { st with pc := BitVec.ofNat 64 placeAddr, run := .ready, hold := none, wait := none, yielded := false, sent := []
                                     spr := { st.spr with svm := true }
                                     traps := { st.traps with replay := [], stepDue := false, due := none }
                                     view := { st.view with snap := {}, stores := [] } }
    { s with mem := memCommit s.mem (logBytes [] key (toBytes (BitVec.ofNat 32 w) 4))
             poison := s.poison.filter (fun p => decide (p + 8 ≤ key) || decide (key + 4 ≤ p))
             hidden := s.hidden.filter (fun h => decide (h.1 < key) || decide (key + 4 ≤ h.1))
             schedule := [.issue 0 0]
             power := { s.power with powered := true } }
  else
    let word : BitVec 128 := BitVec.ofNat 128 w
    let tgt := bitsN word 112 8
    let q := if tgt < 32 then tgt else 32
    let g := getRegion s 0
    let c : QCmd := { num := g.cmds.seq, word := word }
    let s := setRegion s 0 { g with cmds := { g.cmds with seq := g.cmds.seq + 1, live := c.num :: g.cmds.live, queues := g.cmds.queues.put q [c] } }
    { s with schedule := [.command 0 q], power := { s.power with powered := true } }

end Sys2Proof.Machine
end

