-- ==== Sys2Proof/Machine/Step.lean ====
section
/-! DEFINITION. One step of the module: the turn that comes next runs (R5, R68; log 4). -/

namespace Sys2Proof.Machine

/-- One step: nothing runs without power (R108) but a cold reset; otherwise the turn's instruction or event runs. -/
def step (s : State) : Host.Outcome State Fault Refusal :=
  if awake s then
    match prepare s with
    | .run i s' => exec i s'
    | .done o => o
  else .fault .poweredOff

/-- `s` with an instruction stored where `step` fetches next (log 3). -/
def State.withFetchWord (s : State) (nbits w : Nat) : State := placeWord s nbits w

end Sys2Proof.Machine
end

