-- ==== Sys2Proof/Safety.lean ====
section
/-! DEFINITION. What counts as a safe run, and the terms in which claims are made: states between steps, instructions that run
freely, what a step leaves unchanged. -/

namespace Sys2Proof.Machine

/-- `t` is reached from `s` by steps that all answer a next state. -/
inductive Reaches : State → State → Prop where
  | refl (s : State) : Reaches s s
  | tail {s t u : State} : Reaches s t → step t = .next u → Reaches s u

/-- Between steps memory is in canonical form, and the write log of the step is empty. -/
def State.MemOk (s : State) : Prop := Memory.wf s.mem = true ∧ s.wlog = []

/-- A lifecycle transition of R56, or none. -/
def lcsStep : Lcs → Lcs → Bool
  | .blank, .provisioned => true
  | .provisioned, .deployed => true
  | .provisioned, .debugOpen | .deployed, .debugOpen => true
  | .provisioned, .retired | .deployed, .retired | .debugOpen, .retired => true
  | a, b => a == b

/-- The instruction answers a next state with a property. -/
def Gives (i : Instr) (s : State) (P : State → Prop) : Prop := ∃ t, exec i s = .next t ∧ P t

/-- An instruction that a READY strand has just issued: no replay entry (R210), no request to another module that finishes or is under way
(R157), no watch hit (R164), no single step (R221). -/
structure Plain (s : State) : Prop where
  between : s.MemOk
  fresh : s.cur.cap = none
  here : s.cur.home = none
  granted : s.cur.denied = false
  calm : s.cur.watch = none
  ready : (self s).run = .ready
  freely : (self s).spr.ss = false
  alone : (self s).sent = []

/-- Parts of the module other than strands, memory, translation, accounting and the Ostler's record of teams. -/
structure SameDevices (s t : State) : Prop where
  tiles : t.tiles = s.tiles
  chans : t.chans = s.chans
  ost : t.ost = s.ost
  saves : t.saves = s.saves
  trees : t.trees = s.trees
  fab : t.fab = s.fab
  sec : t.sec = s.sec
  clock : t.clock = s.clock

/-- Everything but the strands. -/
structure SameModule (s t : State) : Prop extends SameDevices s t where
  mem : t.mem = s.mem
  regions : t.regions = s.regions
  teams : t.teams = s.teams
  teth : t.teth = s.teth
  trans : t.trans = s.trans
  host : t.host = s.host
  power : t.power = s.power
  poison : t.poison = s.poison
  hidden : t.hidden = s.hidden
  part : t.part = s.part
  free : t.free = s.free

/-- Every team is as it was, but that a waiting launch may have met its dependences (R66). -/
def SameTeams (s t : State) : Prop := ∀ id, { getTeam t id with depsMet := false } = { getTeam s id with depsMet := false }

/-- Every strand but the one in progress. -/
def OtherStrands (s t : State) : Prop := ∀ i, i ≠ me s → getStrand t i = getStrand s i

/-- The registers of the strand in progress: `d` holds `v` unless it is g0 (R258), the others are unchanged. -/
def Writes (s t : State) (d : Reg) (v : Word) : Prop :=
  ∀ r, (getStrand t (me s)).reg r = if r = d ∧ d ≠ 0 then v else (self s).reg r

/-- The strand in progress wrote `d` and went on to the next instruction; its special registers and traps are unchanged. -/
structure Result (s t : State) (d : Reg) (v : Word) : Prop where
  regs : Writes s t d v
  pc : (getStrand t (me s)).pc = s.cur.pc + 4
  run : (getStrand t (me s)).run = .ready
  spr : (getStrand t (me s)).spr = (self s).spr
  traps : (getStrand t (me s)).traps = (self s).traps

/-- The instruction completes with a register's new value and changes nothing else. -/
def Completes (i : Instr) (s : State) (d : Reg) (v : Word) : Prop :=
  Gives i s (fun t => Result s t d v ∧ OtherStrands s t ∧ SameModule s t)

/-- The strand goes on at an address, with `d` holding `v`, and nothing else changes. -/
structure Jumps (s t : State) (target : Word) (d : Reg) (v : Word) : Prop where
  regs : Writes s t d v
  pc : (getStrand t (me s)).pc = target
  run : (getStrand t (me s)).run = .ready
  spr : (getStrand t (me s)).spr = (self s).spr
  traps : (getStrand t (me s)).traps = (self s).traps
  others : OtherStrands s t
  same : SameModule s t

/-- An access of the strand in progress reaches a home of this module by the leaf `pte`, on a page that is not watched and has no bad
word there. -/
structure Lands (s : State) (va : Word) (n : Nat) (k : Acc) (key : Nat) (pte : Word) : Prop where
  xl : translate s (strandSpace s (me s)) va k = .ok key pte
  home : awayKey s key = false
  unwatched : bit pte 5 = false
  sound : k = .write ∨ poisoned s key n = false

/-- The strand sees memory as it is at its homes, and its stores are performed at once: nothing bound or pending, nothing released and
not yet performed, no open task. -/
structure Direct (s : State) : Prop where
  noTask : inOpenTask s (me s) = false
  noSnap : (self s).view.snap = {}
  noStores : (self s).view.stores = []
  atOnce : (self s).view.defer = false
  noPart : s.part = []

/-- No strand waits for a lock. -/
def NoLockWaits (s : State) : Prop := ∀ c ∈ s.teth.locks.cells, c.2 = []

/-- Memory after a store of bytes at a key: those bytes, and every other one as before. -/
def Stored (s t : State) (key : Nat) (bs : List Byte) : Prop :=
  ∀ a, memRead t.mem a = if key ≤ a ∧ a < key + bs.length then bs.getD (a - key) 0 else memRead s.mem a

/-- Every byte reads as before. -/
def SameMemory (s t : State) : Prop := ∀ a, memRead t.mem a = memRead s.mem a

/-- The little-endian value of n bytes at a key. -/
def valueAt (s : State) (key n : Nat) : Nat := ofBytes ((List.range n).map (fun k => memRead s.mem (key + k)))

/-- A strand whose team handler takes its causes: INH clear, TVEC set, the frame's pages writable, no open task (R205, R206). -/
structure Trappable (s : State) : Prop where
  inh : (self s).spr.inh = false
  tvec : (self s).spr.tvec ≠ 0
  noTask : inOpenTask s (me s) = false
  frame : (frameKeys s { strandSpace s (me s) with svm := handlerSvm s (me s) } (self s).spr.tframe .write 10).isSome = true

/-- The strand in progress has entered its handler with a cause (R205). -/
structure Trapped (s t : State) (code : Byte) (tval : Word) : Prop where
  pc : (getStrand t (me s)).pc = (self s).spr.tvec
  cause : bits (getStrand t (me s)).spr.tcause 0 8 = code
  tval : (getStrand t (me s)).spr.tval = tval
  tpc : (getStrand t (me s)).spr.tpc = s.cur.pc
  inh : (getStrand t (me s)).spr.inh = true
  svm : (getStrand t (me s)).spr.svm = handlerSvm s (me s)
  run : (getStrand t (me s)).run = .ready
  regs : ∀ r, (getStrand t (me s)).reg r = (self s).reg r

/-- A strand waits on something (R79), with its registers as they were and its pc past the instruction. -/
structure Waiting (s t : State) (on : WaitOn) : Prop where
  run : (getStrand t (me s)).run = .waiting
  on : (getStrand t (me s)).wait.map (·.on) = some on
  pc : (getStrand t (me s)).pc = s.cur.pc + 4
  regs : ∀ r, (getStrand t (me s)).reg r = (self s).reg r

/-- A waiting strand has completed with a value. -/
structure Woken (s t : State) (i : Nat) (w : Wait) (v : Word) : Prop where
  regs : ∀ r, (getStrand t i).reg r = if r = w.dst ∧ w.dst ≠ 0 then v else (getStrand s i).reg r
  wait : (getStrand t i).wait = none
  run : (getStrand t i).run = .ready
  pc : (getStrand t i).pc = (getStrand s i).pc

/-- A wait that can end plainly: no watch hit, no single step, no replay that leaves the strand IDLE (R164, R210, R221). -/
structure Wakes (s : State) (i : Nat) (w : Wait) : Prop where
  waits : (getStrand s i).wait = some w
  unwatched : w.watch = none
  freely : (getStrand s i).spr.ss = false
  stays : (getStrand s i).traps.idleAfter = false

/-- At the end of a wait the strand's implicit entry is gone; a USER entry stays (R79). -/
def Unwaited (s t : State) (i : Nat) : Prop :=
  (∀ e ∈ s.teth.entries, e.kind = 4 → e ∈ t.teth.entries) ∧
  ((∀ e ∈ s.teth.entries, e.waiter = gidOf s i → e.kind ≠ 4) → ∀ e ∈ t.teth.entries, e.waiter ≠ gidOf s i)

/-- The command in progress has retired: its number is no longer live (R277, R295). -/
def Retired (s t : State) : Prop := s.cur.num ∉ (getRegion t s.cur.reg.toNat).cmds.live

/-- A team that holds the region of the strand in progress, and the only one listed there. -/
structure TeamHere (s : State) (tm : Team) : Prop where
  of : teamOf s s.cur.reg.toNat = some tm
  key : s.teams.find? tm.id = some tm
  alone : ∀ c ∈ s.teams.cells, c.2.holds s.cur.reg.toNat = true → c.1 = tm.id

/-- The table has room for an entry of the strand in progress (R76, R89), or the strand waits untethered: TFE = 0. -/
def MayWait (s : State) (obj : Word) : Prop :=
  (self s).spr.tfe = false ∨ (s.teth.entries.filter (fun e => tethHome e.obj == tethHome obj)).length < 512

/-- Registers, pc and run status of the other strands. -/
def OthersRunOn (s t : State) : Prop :=
  ∀ i, i ≠ me s → (getStrand t i).regs = (getStrand s i).regs ∧ (getStrand t i).pc = (getStrand s i).pc ∧ (getStrand t i).run = (getStrand s i).run

/-- What an access does to the TLBs and to the byte counts (R156, R160). -/
def touched (s : State) (va : Word) (key : Nat) (pte : Word) (n : Nat) : State := account (touchTlb s (strandSpace s (me s)) va.toNat) key pte n

/-- Blocks of 64 bytes from an address on, which the strand in progress reaches one after the other; `ks` are their keys. -/
def Blocks (s : State) (va : Word) (k : Acc) : List Nat → Prop
  | [] => True
  | key :: ks => ∃ pte, Lands s va 64 k key pte ∧ Blocks (touched s va key pte 64) (va + 64) k ks

/-- The state once the strand in progress has reached such blocks. -/
def afterBlocks (s : State) (va : Word) (k : Acc) : List Nat → State
  | [] => s
  | key :: ks => match translate s (strandSpace s (me s)) va k with
    | .ok _ pte => afterBlocks (touched s va key pte 64) (va + 64) k ks
    | _ => s

/-- The bytes of such blocks. -/
def blockBytes (s : State) (ks : List Nat) : List Byte := ks.flatMap (fun k => (List.range 64).map (fun j => memRead s.mem (k + j)))

/-- A cause is the last one pending of a strand (R212). -/
def Pended (t : State) (i : Nat) (code : Byte) (num : Nat) : Prop :=
  ∃ c, (getStrand t i).traps.pend.getLast? = some c ∧ c.code = code ∧ c.tseq = num

/-- The command in progress fails a check of R294: it retires, and CONFIG_INVALID with that check's record is pending for the strand that issued it,
where fewer than 16 causes are (R212); nothing that the command names has changed. -/
def CheckFails (i : Instr) (s : State) (chk det : Nat) : Prop :=
  let r := s.cur.reg.toNat
  let w := causeStrand s r s.cur.num
  (getStrand s w).traps.pend.length < 16 →
  Gives i s (fun t => Retired s t ∧ t.chans = s.chans ∧ t.tiles = s.tiles ∧ t.teams = s.teams ∧ t.trees = s.trees ∧ SameMemory s t ∧
    Pended t w 0x12 s.cur.num ∧ ∃ c, (getStrand t w).traps.pend.getLast? = some c ∧ c.tval = checkRecord 0 chk 0 0 det)

/-- An engine's access that need not wait for a walk reaches its pieces (R160); nothing released is still to be performed. -/
structure Reached (s : State) (c : Space) (va : Word) (n : Nat) (k : Acc) (ps : List Piece) : Prop where
  parts : s.part = []
  free : engineBlocked s c va n k = false
  xl : engineXl (enginePrep s c va n k) c va n k = .ok ps

/-- A descriptor of n bytes that the command in progress reads whole (R293). -/
def Described (s : State) (va : Word) (n : Nat) (bs : List Byte) : Prop :=
  ∃ ps, Reached s ((myTeam s).spaceAt (myTeam s).svm s.cur.reg.toNat) va n .read ps ∧ badAt s ps = none ∧ readPieces s ps = bs

/-- A step that sends messages outside in this order. -/
def Says (s t : State) (os : List Out) : Prop := t.host.out = s.host.out ++ os

/-- A team under its own id. -/
def TeamAt (s : State) (id : TeamId) (v : Team) : Prop := s.teams.find? id.toNat = some v ∧ v.id = id.toNat

/-- What the action of a pick draws (R101, R102): a firing its cost, any other step 1. -/
def pickCost (s : State) (r tile a : Nat) : Todo → Nat
  | .fire m f => (tryFire s r tile a m f).cost
  | _ => gaitCost (getTile s r tile).gait.cur 1

/-- The arbiter of a tile picks an actor with an action whose cost the region's pool holds, and the tile's turn to draw has come (R102, R117);
`c` is the context with its credits after the pick. -/
structure Picked (s : State) (r tile a : Nat) (c : Ctx) (todo : Todo) (cost : Nat) : Prop where
  pick : arbitrate ((getTile s r tile).ctxs.getD (getTile s r tile).active {}) (readyActors s r tile (getTile s r tile)) = some (a, c)
  does : todoOf s r tile (((getTile s r tile).ctxs.getD (getTile s r tile).active {}).actor a) = todo
  time : intervalOpen s = true
  costs : cost = pickCost s r tile a todo
  pool : (getRegion s r).pool.holds cost = true
  turn : drawTurn s r tile = true

/-- A record or marker is emitted on a channel (R148, R318, R358): every branch in use will receive it; its last `n` tokens leave from now on, one
on a clock, behind those that have left. -/
def Emits (s t : State) (ch n : Nat) (toks : List Tok) : Prop :=
  let c := getChan s ch
  let left := max s.clock c.next + n - 1
  (getChan t ch).next = left + 1 ∧
  (getChan t ch).branches = c.branches.map (fun b => if b.kind = 3 then b else { b with flight := b.flight ++ [wayOf s c b left toks] })

/-- What stands on a branch, its buffer and its state, is as it was. -/
def SameBranches (s t : State) (ch : Nat) : Prop := (getChan t ch).branches = (getChan s ch).branches

/-- Memory after pieces of an engine's access are written with bytes. -/
def WritesPieces (s t : State) (ps : List Piece) (bs : List Byte) : Prop := ∀ a, memRead t.mem a = readByte (writePieces s ps bs) a

/-- No page of the pieces is watched. -/
def Unwatched (ps : List Piece) : Prop := ∀ p ∈ ps, bit p.pte 5 = false

/-- The k-th packet under way is for this module, at its die, of a class, and well formed (R9, R18). -/
def Here (s : State) (k : Nat) (p : Packet) (cls : Nat) : Prop :=
  s.fab.inbound[k]? = some p ∧ Hp.dmod p = modN s ∧ p.here = Hp.ddie p ∧ Hp.cls p = cls ∧ p.bad = false

end Sys2Proof.Machine
end

