-- ==== Sys2Proof/Certificates/Slice0/Obligations.lean ====
section
/-! DEFINITION. The statements for the provers: encodings, steps, registers, memory, exceptions, waits, commands, the tiles, the
Ostler, the fabric, the host and the lifecycle. Each docstring names the rule that the statement comes from. -/

open Sys2Proof Sys2Proof.Machine

/-! ### Encodings -/

/-- Every well-formed Drover instruction that has a word decodes from it with all its operands (R232–R236). -/
def Obligations.DroverWordsDecodeBack : Prop :=
  ∀ (i : Instr) (w : Word32), i.wellFormed = true → encode i = some w → decode w = .ok i

/-- Every well-formed stream command decodes from its word with all its operands (R237, R238). -/
def Obligations.CommandWordsDecodeBack : Prop :=
  ∀ (i : Instr) (w : BitVec 128), i.wellFormed = true → encodeCmd i = some w → decodeCmd w = .ok i

/-- A Drover word that is accepted is the word of the instruction it gives: no bit is ignored (R232). -/
def Obligations.AcceptedWordsHaveNoIgnoredBit : Prop :=
  ∀ (w : Word32) (i : Instr), decode w = .ok i → encode i = some w ∧ i.wellFormed = true

/-- Words that the spec writes out decode to the instructions it writes them for (R260, R263, R264, R266, R270, R271). -/
def Obligations.WordsOfTheManual : Prop :=
  decode 0x00A63A00 = .ok (.add 5 6 7 1) ∧
  decode 0x601F0000 = .ok (.jalr 0 31 0) ∧
  decode 0x80CA0040 = .ok (.ld 0 6 10 0x40) ∧
  decode 0x9CA60003 = .ok (.ldWhB 5 6 3) ∧
  decode 0xA0CB0000 = .ok (.st 0 6 11 0) ∧
  decode 0xA4BEFFF8 = .ok (.st 1 5 30 0xFFF8) ∧
  decode 0x64A00001 = .ok (.mfs 5 1) ∧
  decode 0x68060005 = .ok (.tvecWrite 6) ∧
  decode 0xC0EC6A20 = .ok (.amo 7 12 13 2 false true false 0) ∧
  decode 0xC4AA3350 = .ok (.cas 5 10 6 3 true false true) ∧
  decode 0xC8000202 = .ok (.phase 2 2)

/-! ### Steps -/

/-- When the bytes at the pc decode to an instruction, the step that issues the strand is that instruction's `exec` (R68, R229, R232):
the turn and its clock are recorded, the word is fetched through the TLBs and its bytes are counted, what has been released to the strand is found
performed (R172), a WATCH that hits the fetch is noted (R164), one token is charged (R104) and the word is noted. -/
def Obligations.StepRunsFetchedInstruction : Prop :=
  ∀ (s : State) (r : RegionId) (t : StrandNo) (rest : List Turn) (key : Nat) (pte : Word) (w : Word32) (i : Instr),
    s.power.powered = true → s.schedule = .issue r t :: rest →
    mayIssue { s with schedule := rest } r.toNat t.toNat = true →
    let u := turnState { s with schedule := rest } r t
    (self u).traps.stopDue = false → (self u).traps.stepDue = false → (self u).traps.watchDue = none → (self u).traps.replay = [] →
    (t ≠ 0 ∨ (myTeam u).energy.at0.contains r.toNat = false) →
    (self u).pc.toNat % 4 = 0 →
    let u := { u with cur := { u.cur with pc := (self u).pc, insn := 0, cap := none } }
    translate u (strandSpace u (me u)) (self u).pc .fetch = .ok key pte →
    let hit := (watchHit u (strandSpace u (me u)).tag key pte 4 .fetch).map (fun j => (self u).pc + BitVec.ofNat 64 j)
    let u := fetchSeen (touched u (self u).pc key pte 4) key
    let u := { u with cur := { u.cur with watch := hit } }
    poisoned u key 4 = false →
    let x := fetchBytes u (me u) key 4
    w = BitVec.ofNat 32 (ofBytes x.1) → decode w = .ok i →
    (self (chargeIssue x.2)).badpar = [] →
    step s = exec i { chargeIssue x.2 with cur := { (chargeIssue x.2).cur with insn := w } }

/-- The other turns. When the head of a command queue may begin, the step that begins it is its `exec`, with the command as the one in
progress and marked begun (R124, R294). A step of an engine, of the Ostler, of the fabric, of the firmware or of the host is its `exec`
(R5; log 4). When no Drover that holds a READY strand has still to issue on this clock (R68) and nothing that falls on it is left, the clock advances, and
nothing but it moves at strands, tiles and memory while no firing is in progress (R339). Without power nothing
runs but a cold reset (R108, R109): a step is the fault `poweredOff`. -/
def Obligations.StepRunsCommandOrEvent : Prop :=
  ∀ (s : State) (i : Instr) (r : RegionId) (q n : Nat) (rest : List Turn) (h : QCmd),
    let u : State := { s with schedule := rest }
    let begun : State := { u with cur := { reg := r, str := h.strand, num := h.num, queue := q } }
    (s.power.powered = true → s.schedule = .command r q :: rest → headReady u r.toNat q = some h → decodeCmd h.word = .ok i →
      step s = exec i (markBegun begun r.toNat h.num)) ∧
    ((s.power.powered = true ∨ i = .coldReset) → isEvent i = true → s.schedule = .event i :: rest → step s = exec i u) ∧
    (s.power.powered = true → s.schedule = .tick n :: rest → mayTick u n = true → s.MemOk →
      ∃ t, step s = .next t ∧ t.clock = s.clock + n ∧ ((∀ x ∈ s.tiles.vals, x.fir = none) → (∀ c ∈ s.chans.vals, ∀ b ∈ c.branches, b.shed = none) →
        t.strands = s.strands ∧ t.mem = s.mem ∧ t.teams = s.teams ∧ t.tiles = s.tiles)) ∧
    (s.power.powered = false → s.schedule.head? ≠ some (.event .coldReset) → step s = .fault .poweredOff)

/-- Every step keeps memory in canonical form and leaves no write of its own pending (log 2). -/
def Obligations.StepsKeepMemoryCanonical : Prop :=
  ∀ (s t : State), s.MemOk → step s = .next t → t.MemOk

/-- Every step moves the lifecycle along R56 or leaves it. -/
def Obligations.StepsFollowTheLifecycle : Prop :=
  ∀ (s t : State), step s = .next t → lcsStep s.sec.lcs t.sec.lcs = true

/-- The trust record changes only by the steps that R51 to R58 name, power-up (R49), loss of power (R109) and a reset over the management
bus (R50): no instruction of a strand, no command and no step of an engine touches it. -/
def Obligations.TrustChangesOnlyByItsSteps : Prop :=
  ∀ (i : Instr) (s t : State), exec i s = .next t →
    (match i with
      | .coldReset | .fwload _ | .measext _ _ | .imgreg _ _ _ | .attestRequest _ _ | .attestReport | .deploy | .provisioning _ _
      | .dbgnonce _ | .dbgunlock _ _ _ _ | .retire _ | .i3cRequest _ _ | .regionPowerUp _ | .powerLoss => False
      | _ => True) → t.sec = s.sec

/-- The machine right after reset: no team and no strand runs, tiles are STABLED, links DISABLED with EN = 0, TVEC, TFRAME and TSTATUS
are 0, CMDSEQ is 1, GAITFLOOR.PROG is 1, LRMAP is 0, CYCLE is 0, memory lists nothing (R14, R49, R95, R266, R268, R269). -/
def Obligations.ResetState : Prop :=
  State.reset.MemOk ∧ State.reset.mem = [] ∧ State.reset.clock = 0 ∧ State.reset.teams.cells = [] ∧
  (∀ i, (getStrand State.reset i).run = .idle ∧ (getStrand State.reset i).spr.tvec = 0 ∧ (getStrand State.reset i).spr.tframe = 0 ∧
    (getStrand State.reset i).tstatus = 0) ∧
  (∀ r, (getRegion State.reset r).cmds.seq = 1 ∧ (getRegion State.reset r).prog = 1 ∧ (getRegion State.reset r).lr = 0) ∧
  (∀ r k, (getTile State.reset r k).gait.cur = 0) ∧
  (∀ n, (getLink State.reset n).en = false ∧ (getLink State.reset n).st = 4) ∧
  State.reset.power.budget = 768000000 ∧ mstatWord State.reset.sec = 0

/-! ### Registers -/

/-- Register arithmetic (R260), with its encoding: at every width the destination holds the value the rule gives, the pc moves on, nothing traps and nothing
else changes; g0 discards the value (R258). Division goes toward zero; a divisor of 0 gives −1 and the dividend, and the quotient that overflows wraps. A size that an
instruction does not have is a reserved field. -/
def Obligations.RegisterArithmetic : Prop :=
  ∀ (s : State), Plain s → ∀ (d a b : Reg) (z : BitVec 2),
    let x := (self s).reg a
    let y := (self s).reg b
    let n := y.toNat % szBits z
    let word (op : BitVec 6) (fn : BitVec 9) : Word32 := op ++ d ++ a ++ b ++ z ++ fn
    let sized (op : BitVec 6) (fn : BitVec 9) (i : Instr) (v : Word) : Prop := decode (word op fn) = .ok i ∧ Completes i s d v
    let whole (op : BitVec 6) (fn : BitVec 9) (i : Instr) (v : Word) : Prop :=
      decode (word op fn) = (if z = 0 then .ok i else .error .reservedField) ∧ Completes i s d v
    sized 0 0 (.add d a b z) (sx z (x + y)) ∧
    sized 0 1 (.sub d a b z) (sx z (x - y)) ∧
    whole 0 2 (.and d a b) (x &&& y) ∧
    whole 0 3 (.or d a b) (x ||| y) ∧
    whole 0 4 (.xor d a b) (x ^^^ y) ∧
    sized 0 5 (.sll d a b z) (sx z (x <<< n)) ∧
    sized 0 6 (.srl d a b z) (sx z (zx z x >>> n)) ∧
    sized 0 7 (.sra d a b z) (sx z ((sx z x).sshiftRight n)) ∧
    whole 0 8 (.slt d a b) (if x.toInt < y.toInt then 1 else 0) ∧
    whole 0 9 (.sltw d a b) (if x.toNat < y.toNat then 1 else 0) ∧
    whole 0 10 (.min d a b) (if x.toInt < y.toInt then x else y) ∧
    whole 0 11 (.max d a b) (if x.toInt < y.toInt then y else x) ∧
    sized 1 0 (.mul d a b z) (sx z (x * y)) ∧
    whole 1 1 (.mulh d a b) (BitVec.ofInt 64 (x.toInt * y.toInt / 2 ^ 64)) ∧
    sized 1 2 (.div d a b z) (if sx z y = 0 then -1 else sx z (BitVec.ofInt 64 ((sx z x).toInt.tdiv (sx z y).toInt))) ∧
    sized 1 3 (.divw d a b z) (if sx z y = 0 then -1 else sx z (BitVec.ofNat 64 ((zx z x).toNat / (zx z y).toNat))) ∧
    sized 1 4 (.rem d a b z) (if sx z y = 0 then sx z x else sx z (BitVec.ofInt 64 ((sx z x).toInt.tmod (sx z y).toInt))) ∧
    sized 1 5 (.remw d a b z) (if sx z y = 0 then sx z x else sx z (BitVec.ofNat 64 ((zx z x).toNat % (zx z y).toNat)))

/-- Immediates (R261). -/
def Obligations.Immediates : Prop :=
  ∀ (s : State), Plain s → ∀ (d a : Reg) (i : Half) (n : BitVec 6),
    let x := (self s).reg a
    let si : Word := i.signExtend 64
    let zi : Word := i.setWidth 64
    Completes (.addi d a i) s d (x + si) ∧
    Completes (.andi d a i) s d (x &&& zi) ∧
    Completes (.ori d a i) s d (x ||| zi) ∧
    Completes (.xori d a i) s d (x ^^^ zi) ∧
    Completes (.slti d a i) s d (if x.toInt < si.toInt then 1 else 0) ∧
    Completes (.sltiw d a i) s d (if x.toNat < si.toNat then 1 else 0) ∧
    Completes (.slli d a n) s d (x <<< n.toNat) ∧
    Completes (.srli d a n) s d (x >>> n.toNat) ∧
    Completes (.srai d a n) s d (x.sshiftRight n.toNat) ∧
    Completes (.lui d i) s d (((zi <<< 16).setWidth 32).signExtend 64) ∧
    Completes (.ori16 d a i) s d (x ||| (zi <<< 16)) ∧
    Completes (.ori32 d a i) s d (x ||| (zi <<< 32)) ∧
    Completes (.ori48 d a i) s d (x ||| (zi <<< 48)) ∧
    Completes (.pcadd d i) s d (s.cur.pc + 4 * si)

/-- Branches and jumps (R262, R263), with the encoding of R262: the target is PC + 4·off; a branch that is not taken continues at PC + 4; JAL writes g31, and JALR, which computes its
target first, writes g[d], so d = a is allowed. A register 0 in `Jumps` stands for no write. -/
def Obligations.BranchesAndJumps : Prop :=
  ∀ (s : State), Plain s → ∀ (d a b : Reg) (o : Half) (f : BitVec 26),
    let x := (self s).reg a
    let y := (self s).reg b
    let next := s.cur.pc + 4
    let there := s.cur.pc + 4 * o.signExtend 64
    let far := s.cur.pc + 4 * f.signExtend 64
    let branch (op : BitVec 6) (i : Instr) (taken : Prop) : Prop := decode (op ++ a ++ b ++ o) = .ok i ∧
      (taken → Gives i s (fun t => Jumps s t there 0 0)) ∧ (¬taken → Gives i s (fun t => Jumps s t next 0 0))
    branch 0x10 (.beq a b o) (x = y) ∧
    branch 0x11 (.bne a b o) (x ≠ y) ∧
    branch 0x12 (.blt a b o) (x.toInt < y.toInt) ∧
    branch 0x13 (.bge a b o) (y.toInt ≤ x.toInt) ∧
    branch 0x14 (.bltw a b o) (x.toNat < y.toNat) ∧
    branch 0x15 (.bgew a b o) (y.toNat ≤ x.toNat) ∧
    (decode ((0x16 : BitVec 6) ++ f) = .ok (.j f) ∧ Gives (.j f) s (fun t => Jumps s t far 0 0)) ∧
    (decode ((0x17 : BitVec 6) ++ f) = .ok (.jal f) ∧ Gives (.jal f) s (fun t => Jumps s t far 31 next)) ∧
    Gives (.jalr d a o) s (fun t => Jumps s t (x + o.signExtend 64) d next)

/-- Special registers (R88, R95, R96, R104, R105, R207, R212, R221, R266–R269). MFS of an assigned index that the mode may read answers the register's contents, which are said for every index; WALLCLOCK is the
epoch that the firmware set plus CYCLE, the model's choice (log 6). MTS to TVEC, TFRAME and TSTATUS changes the fields that R207 lets it write and no other register; a supervisor's write that sets SS steps at
once: the strand is STOPPED behind it. MTS to GAITFLOOR, QUOTA and LRMAP changes PROG, EN and REMAIN with the EXH that follows (R107), and the fields that do not hold 3. -/
def Obligations.SpecialRegisters : Prop :=
  (∀ (s : State), Plain s → ∀ (d : Reg) (i : BitVec 12),
    (i.toNat ≤ 0x16 ∨ (0x20 ≤ i.toNat ∧ i.toNat ≤ 0x23 ∧ (self s).spr.svm = true)) →
    let r := me s / 4
    let p := (self s).spr
    let shows (n : BitVec 12) (v : Word) : Prop := i = n → readSpecial s (me s) i.toNat = v
    let tiles (q : Tile → Bool) : Nat := (s.tiles.cells.filter (fun c => c.1 / 256 == r && q c.2)).length
    let turning (t : Tile) : Bool := t.gait.sw.isSome && decide (t.busy ≤ s.clock)
    let boost : Prop := ∃ k, k < 4 ∧ (getStrand s (r * 4 + k)).spr.prio.toNat < (getStrand s (r * 4 + k)).spr.eprio.toNat
    let prog := (getRegion s r).prog.toNat
    Completes (.mfs d i) s d (readSpecial s (me s) i.toNat) ∧
    shows 0x000 (BitVec.ofNat 64 (modN s * 512 + me s)) ∧
    (∀ tm a b, teamOf s r = some tm → a ≤ 4 → b ≤ 3 → tm.w = 2 ^ a → tm.h = 2 ^ b →
      shows 0x001 (BitVec.ofNat 64 tm.id) ∧
      shows 0x002 (BitVec.ofNat 64 (b * 2 ^ 19 + a * 2 ^ 16 + (r / 16 - tm.y) * 2 ^ 12 + (r % 16 - tm.x) * 2 ^ 8 + r)) ∧
      shows 0x003 tm.slicebase ∧ shows 0x004 tm.cartbase ∧
      shows 0x010 (BitVec.ofNat 64 ((if tm.energy.en then 2 ^ 63 else 0) + (if tm.energy.exh then 2 ^ 62 else 0) + (tm.energy.remain % 2 ^ 62).toNat)) ∧
      shows 0x011 (BitVec.ofNat 64 tm.energy.spent)) ∧
    shows 0x005 p.tvec ∧ shows 0x006 p.tcause ∧ shows 0x007 p.tval ∧ shows 0x008 p.tpc ∧ shows 0x009 p.tseq ∧ shows 0x00A p.tframe ∧
    shows 0x00B (BitVec.ofNat 64 ((if p.inh then 1 else 0) + (if p.svm then 2 else 0) + (if p.tfe then 4 else 0) + (if p.ss then 8 else 0) +
      (if p.dba then 16 else 0) + 32 * min (self s).traps.pend.length 16)) ∧
    shows 0x00C (p.prio.setWidth 64) ∧ shows 0x00D (p.eprio.setWidth 64) ∧
    (let nsw := tiles turning
      let walk := tiles (fun t => !turning t && t.gait.cur == 1)
      let gall := tiles (fun t => !turning t && t.gait.cur == 2)
      shows 0x00E (BitVec.ofNat 64 (nsw * 2 ^ 48 + (256 - nsw - walk - gall) * 2 ^ 32 + walk * 2 ^ 16 + gall))) ∧
    (boost → shows 0x00F (BitVec.ofNat 64 (16 + 2 * 4 + prog))) ∧ (¬boost → shows 0x00F (BitVec.ofNat 64 (prog * 4 + prog))) ∧
    shows 0x012 (BitVec.ofNat 64 (getRegion s r).cmds.seq) ∧ shows 0x013 (BitVec.ofNat 64 s.clock) ∧ shows 0x014 (BitVec.ofNat 64 (s.host.wallclock + s.clock)) ∧
    shows 0x015 p.knotrec ∧ shows 0x016 (p.replayn.setWidth 64) ∧
    (∀ q j, q < 4 → j < 32 → i.toNat = 0x20 + q → bitsN (readSpecial s (me s) i.toNat) (2 * j) 2 = (getRegion s (32 * q + j)).lr.toNat)) ∧
  (∀ (s : State), Plain s → ∀ (a : Reg),
    let v := (self s).reg a
    let moved (t : State) (p : Spr) : Prop :=
      (getStrand t (me s)).spr = p ∧ (getStrand t (me s)).pc = s.cur.pc + 4 ∧ Writes s t 0 0 ∧ OtherStrands s t ∧ SameModule s t
    (bitsN v 0 2 = 0 → Gives (.tvecWrite a) s (fun t => moved t { (self s).spr with tvec := v })) ∧
    (bitsN v 0 6 = 0 → Gives (.tframeWrite a) s (fun t => moved t { (self s).spr with tframe := v } ∧ (getStrand t (me s)).traps.blocked = false)) ∧
    (bitsN v 10 54 = 0 → bit v 3 = false → ((self s).spr.svm = true ∨ bit v 4 = (self s).spr.dba) →
      Gives (.tstatusWrite a) s (fun t => moved t { (self s).spr with inh := bit v 0, tfe := bit v 2, ss := false, dba := bit v 4 })) ∧
    (bitsN v 10 54 = 0 → bit v 3 = true → (self s).spr.svm = true → (self s).traps.due = none →
      Gives (.tstatusWrite a) s (fun t => (getStrand t (me s)).spr = { (self s).spr with inh := bit v 0, tfe := bit v 2, ss := true, dba := bit v 4 } ∧
        (getStrand t (me s)).run = .stopped ∧ (getStrand t (me s)).pc = s.cur.pc + 4 ∧ Writes s t 0 0))) ∧
  (∀ (s : State), Plain s → ∀ (a : Reg) (q : BitVec 2) (tm : Team),
    let v := (self s).reg a
    let moved (t : State) : Prop := (getStrand t (me s)).pc = s.cur.pc + 4 ∧ Writes s t 0 0 ∧ OtherStrands s t
    (bitsN v 5 59 = 0 → (bitsN v 0 2 = 1 ∨ bitsN v 0 2 = 2) → Gives (.gaitfloorWrite a) s (fun t => moved t ∧ (getRegion t s.cur.reg.toNat).prog = bits v 0 2 ∧
      ∀ r, r ≠ s.cur.reg.toNat → getRegion t r = getRegion s r)) ∧
    ((self s).spr.svm = true → teamOf s s.cur.reg.toNat = some tm → s.teams.find? tm.id = some tm →
      Gives (.quotaWrite a) s (fun t => moved t ∧ (getTeam t tm.id).energy.en = bit v 63 ∧
        (getTeam t tm.id).energy.remain = min (bits v 0 62).toInt (2 ^ 61 - 1) ∧
        (getTeam t tm.id).energy.exh = (bit v 63 && decide ((bits v 0 62).toInt ≤ 0)) ∧
        (getTeam t tm.id).energy.spent = tm.energy.spent)) ∧
    ((self s).spr.svm = true → (∀ j, j < 32 → bitsN v (2 * j) 2 ≠ 3) →
      Gives (.lrmapWrite a q) s (fun t => moved t ∧ ∀ j, j < 32 → (getRegion t (32 * q.toNat + j)).lr =
        if (getRegion s (32 * q.toNat + j)).lr = 3 then 3 else bits v (2 * j) 2)))

/-- The traps of MFS and MTS (R95, R207, R266, R269): ILLEGAL_OP for an unassigned index, PROTECTION for what the mode may not read or no mode
may write, and for a change of DBA or SS in user mode, RESERVED_FIELD for a reserved bit, a PROG of 0 or 3 and an LRMAP field of 3. -/
def Obligations.SpecialRegisterTraps : Prop :=
  ∀ (s : State), Plain s → Trappable s → NoLockWaits s → ∀ (d a : Reg) (i : BitVec 12) (q : BitVec 2),
    let v := (self s).reg a
    let word : Word := s.cur.insn.setWidth 64
    (specialAssigned i.toNat = false →
      Gives (.mfs d i) s (fun t => Trapped s t 0x01 word) ∧ Gives (.mts a i) s (fun t => Trapped s t 0x01 word)) ∧
    (specialAssigned i.toNat = true → Gives (.mts a i) s (fun t => Trapped s t 0x05 (i.setWidth 64))) ∧
    ((self s).spr.svm = false → 0x20 ≤ i.toNat → i.toNat ≤ 0x23 → Gives (.mfs d i) s (fun t => Trapped s t 0x05 (i.setWidth 64))) ∧
    ((self s).spr.svm = false →
      Gives (.quotaWrite a) s (fun t => Trapped s t 0x05 0x010) ∧
      Gives (.lrmapWrite a q) s (fun t => Trapped s t 0x05 (0x020 + q.setWidth 64))) ∧
    (bitsN v 0 2 ≠ 0 → Gives (.tvecWrite a) s (fun t => Trapped s t 0x02 word)) ∧
    (bitsN v 0 6 ≠ 0 → Gives (.tframeWrite a) s (fun t => Trapped s t 0x02 word)) ∧
    (bitsN v 10 54 ≠ 0 → Gives (.tstatusWrite a) s (fun t => Trapped s t 0x02 word)) ∧
    (bitsN v 10 54 = 0 → (self s).spr.svm = false → bit v 4 ≠ (self s).spr.dba → Gives (.tstatusWrite a) s (fun t => Trapped s t 0x05 0x00B)) ∧
    (bitsN v 10 54 = 0 → (self s).spr.svm = false → bit v 3 = true → Gives (.tstatusWrite a) s (fun t => Trapped s t 0x05 0x00B)) ∧
    ((bitsN v 5 59 ≠ 0 ∨ bitsN v 0 2 = 0 ∨ bitsN v 0 2 = 3) → Gives (.gaitfloorWrite a) s (fun t => Trapped s t 0x02 word)) ∧
    (∀ j, (self s).spr.svm = true → j < 32 → bitsN v (2 * j) 2 = 3 → Gives (.lrmapWrite a q) s (fun t => Trapped s t 0x02 word))

/-! ### Memory -/

/-- Loads (R264) of a strand that sees memory directly (R173): sign or zero extension of the little-endian value at the home; memory,
the other strands and the devices stay as they are. -/
def Obligations.Loads : Prop :=
  ∀ (s : State), Plain s → Direct s → ∀ (d b : Reg) (o : Half) (z : BitVec 2) (key : Nat) (pte : Word),
    let ea := (self s).reg b + o.signExtend 64
    let read (n : Nat) : Word := BitVec.ofNat 64 (valueAt s key n)
    let loads (i : Instr) (v : Word) : Prop :=
      Gives i s (fun t => Result s t d v ∧ OtherStrands s t ∧ SameDevices s t ∧ SameMemory s t ∧ t.regions = s.regions ∧ t.teams = s.teams)
    (ea.toNat % szBytes z = 0 → Lands s ea (szBytes z) .read key pte → loads (.ld z d b o) (sx z (read (szBytes z)))) ∧
    (ea.toNat % 4 = 0 → Lands s ea 4 .read key pte → loads (.ldWhW d b o) ((read 4 : Word).setWidth 32 |>.setWidth 64)) ∧
    (ea.toNat % 2 = 0 → Lands s ea 2 .read key pte → loads (.ldWhH d b o) ((read 2 : Word).setWidth 16 |>.setWidth 64)) ∧
    (Lands s ea 1 .read key pte → loads (.ldWhB d b o) ((read 1 : Word).setWidth 8 |>.setWidth 64))

/-- Stores (R174, R264) of a strand whose stores are performed at once: the low bytes of the source at the home of EA, every other byte as
before; registers keep their values. -/
def Obligations.Stores : Prop :=
  ∀ (s : State), Plain s → Direct s → NoLockWaits s → ∀ (r b : Reg) (o : Half) (z : BitVec 2) (key : Nat) (pte : Word),
    let ea := (self s).reg b + o.signExtend 64
    ea.toNat % szBytes z = 0 → Lands s ea (szBytes z) .write key pte →
    Gives (.st z r b o) s (fun t => Result s t 0 0 ∧ OthersRunOn s t ∧ SameDevices s t ∧ t.regions = s.regions ∧ SameTeams s t ∧
      Stored s t key (toBytes ((self s).reg r) (szBytes z)))

/-- The Carter page (R165, R166, R168): a start word takes the region's next number and joins its channel's queue; LD.D reads the status
word, whose fields are said, and the count of lost lines. -/
def Obligations.CarterPage : Prop :=
  ∀ (s : State), Plain s → Direct s → ∀ (r d b : Reg) (o : Half) (c : Nat),
    let ea := (self s).reg b + o.signExtend 64
    let v := (self s).reg r
    let chan (s : State) : Carter := (getRegion s s.cur.reg.toNat).carters.getD c {}
    let seq := (getRegion s s.cur.reg.toNat).cmds.seq
    c < 8 → ea.toNat % 8 = 0 →
    (translate s (strandSpace s (me s)) ea .write = .cart (64 * c) → bitsN v 0 16 < 1024 → ((myTeam s).tmpl.find? (bitsN v 0 16)).isSome = true →
      (chan s).queue.length < 16 →
      Gives (.carterStart r b o) s (fun t => Result s t 0 0 ∧ OtherStrands s t ∧ SameMemory s t ∧ SameDevices s t ∧
        (chan t).queue = (chan s).queue ++ [{ word := v, num := seq, strand := s.cur.str }] ∧
        (getRegion t s.cur.reg.toNat).cmds.seq = (seq + 1) % 2 ^ 48 ∧ seq ∈ (getRegion t s.cur.reg.toNat).cmds.live)) ∧
    (translate s (strandSpace s (me s)) ea .read = .cart (64 * c + 8) → Completes (.ld 0 d b o) s d (carterStatus (chan s))) ∧
    (∀ w, w = carterStatus (chan s) → (chan s).queue.length ≤ 16 →
      bitsN w 56 5 = (chan s).queue.length ∧ bit w 63 = (chan s).cur.isSome ∧
      ((chan s).cur = none → bitsN w 0 56 = 0 ∧ bitsN w 61 2 = 0) ∧
      (∀ k, (chan s).cur = some k → bit w 62 = k.park.isSome ∧ bit w 61 = k.susp ∧ bitsN w 40 16 = bitsN k.start.word 0 16 ∧ bitsN w 0 40 = k.done % 2 ^ 40)) ∧
    (translate s (strandSpace s (me s)) ea .read = .cart (64 * c + 16) → Completes (.ld 0 d b o) s d (BitVec.ofNat 64 (chan s).lost))

/-- AMO and CAS (R177, R235, R270) at the home of g[a]: the old value in g[d], the new one, said for each operation, in memory, every other byte as before; a CAS whose
compare fails writes nothing; with ACQ the strand's snapshot is discarded. -/
def Obligations.Atomics : Prop :=
  ∀ (s : State), Plain s → Direct s → NoLockWaits s → ∀ (d a b : Reg) (c : BitVec 3) (z r q : Bool) (o : BitVec 4) (key : Nat) (pte : Word),
    let n := if z then 4 else 8
    let old := valueAt s key n
    let x := ((self s).reg b).toNat % 2 ^ (8 * n)
    let cmp := ((self s).reg d).toNat % 2 ^ (8 * n)
    let new := aopNew (8 * n) o.toNat old x
    let sg (v : Nat) : Int := (BitVec.ofNat (8 * n) v).toInt
    (o = 0 → new = (old + x) % 2 ^ (8 * n)) ∧ (o = 1 → new = old &&& x) ∧ (o = 2 → new = old ||| x) ∧ (o = 3 → new = old ^^^ x) ∧
    (o = 4 → new = if sg old ≤ sg x then old else x) ∧ (o = 5 → new = if sg old ≤ sg x then x else old) ∧
    (o = 6 → new = min old x) ∧ (o = 7 → new = max old x) ∧ (o = 8 → new = x) ∧
    (((self s).reg a).toNat % n = 0 → Lands s ((self s).reg a) n .atomic key pte →
    Gives (.amo d a b c z r q o) s (fun t => Result s t d (sext (8 * n) (BitVec.ofNat 64 old)) ∧ OthersRunOn s t ∧ SameDevices s t ∧
      t.regions = s.regions ∧ SameTeams s t ∧ (q = true → (getStrand t (me s)).view.snap = {}) ∧
      Stored s t key (toBytes (BitVec.ofNat 64 new) n)) ∧
    Gives (.cas d a b c z r q) s (fun t => Result s t d (sext (8 * n) (BitVec.ofNat 64 old)) ∧ OthersRunOn s t ∧ SameDevices s t ∧
      t.regions = s.regions ∧ SameTeams s t ∧ (q = true → (getStrand t (me s)).view.snap = {}) ∧
      (if old = cmp then Stored s t key (toBytes (BitVec.ofNat 64 x) n) else SameMemory s t)))

/-- PHASE (R172, R173, R176, R271): REL at MODULE or SYSTEM scope performs the stores that are still under way, here one of them; at a
narrower scope they are released to the agents that the scope covers and are performed later; ACQ discards the snapshot, so that only stores of its own
stand before memory, and fetches see them; registers keep their values. -/
def Obligations.Phases : Prop :=
  ∀ (s : State), Plain s → NoLockWaits s → s.part = [] → (∀ p ∈ (self s).view.stores, p.sent = false) → ∀ (c : BitVec 3) (o : BitVec 2),
    Gives (.phase c o) s (fun t => Result s t 0 0 ∧ SameDevices s t ∧ OthersRunOn s t ∧
      (bit o 1 = true → (getStrand t (me s)).view.stores = []) ∧
      (bit o 0 = true → (∀ e ∈ (getStrand t (me s)).view.snap.cells, e.2.mem = none ∧ e.2.read = false) ∧
        ((getStrand t (me s)).view.stores = [] → (getStrand t (me s)).view.snap = {}) ∧ ∀ h ∈ t.hidden, h.2.1 ≠ me s) ∧
      (∀ p, bit o 1 = true → 3 ≤ c.toNat → (self s).view.stores = [p] → Stored s t p.key p.bytes) ∧
      (bit o 1 = true → c.toNat < 3 → SameMemory s t ∧
        t.part = (self s).view.stores.map (fun p => { strand := me s, scope := c.toNat, key := p.key, bytes := p.bytes, acq := p.acq || bit o 0 })) ∧
      (bit o 1 = false → SameMemory s t ∧ (getStrand t (me s)).view.stores = (self s).view.stores.map (fun p => { p with acq := p.acq || bit o 0 })))

/-- An address that is not a multiple of the access's size raises MISALIGN with TVAL the address, before anything else (R229, R264, R270,
R272, R274, R278, R280, R282–R285): the strand is in its handler, its registers as they were. RSEND reads memory with its flag E clear, and STRAND at scope TEAM its job card; RRECV's buffer need not be aligned (log 34). -/
def Obligations.MisalignedAccessesTrap : Prop :=
  ∀ (s : State), Plain s → Trappable s → NoLockWaits s → ∀ (d a b : Reg) (c : BitVec 3) (o : Half) (z : BitVec 2) (w r q : Bool) (f : BitVec 4),
    let va := (self s).reg a
    let ea := va + o.signExtend 64
    (ea.toNat % szBytes z ≠ 0 →
      Gives (.ld z d a o) s (fun t => Trapped s t 0x03 ea) ∧ Gives (.st z d a o) s (fun t => Trapped s t 0x03 ea)) ∧
    (ea.toNat % 4 ≠ 0 → Gives (.ldWhW d a o) s (fun t => Trapped s t 0x03 ea)) ∧
    (ea.toNat % 2 ≠ 0 → Gives (.ldWhH d a o) s (fun t => Trapped s t 0x03 ea)) ∧
    (ea.toNat % 8 ≠ 0 → Gives (.carterStart d a o) s (fun t => Trapped s t 0x03 ea)) ∧
    (va.toNat % (if w then 4 else 8) ≠ 0 →
      Gives (.amo d a b c w r q f) s (fun t => Trapped s t 0x03 va) ∧ Gives (.cas d a b c w r q) s (fun t => Trapped s t 0x03 va)) ∧
    (va.toNat % 8 ≠ 0 →
      Gives (.waitge d a b c) s (fun t => Trapped s t 0x03 va) ∧ Gives (.lock d a c) s (fun t => Trapped s t 0x03 va) ∧
      Gives (.unlock d a c) s (fun t => Trapped s t 0x03 va) ∧ Gives (.tether d a b) s (fun t => Trapped s t 0x03 va) ∧
      Gives (.untether a) s (fun t => Trapped s t 0x03 va)) ∧
    (va.toNat % 16 ≠ 0 → (myTeam s).energy.due = 0 → Gives (.cmd d a) s (fun t => Trapped s t 0x03 va)) ∧
    (va.toNat % 64 ≠ 0 →
      Gives (.portrd d a b) s (fun t => Trapped s t 0x03 va) ∧ Gives (.portwr d a b) s (fun t => Trapped s t 0x03 va) ∧
      Gives (.enq d a b) s (fun t => Trapped s t 0x03 va) ∧ Gives (.launch d a) s (fun t => Trapped s t 0x03 va) ∧
      Gives (.strand d a 0 2) s (fun t => Trapped s t 0x03 va) ∧
      (let g := (self s).reg b
        ∀ t n k, bitsN g 6 58 = 0 → teamTree s (myTeam s).id (bitsN g 0 6) = some t → t.node s.cur.reg.toNat = some n → n.slot s.cur.str.toNat = some k →
          Gives (.rsend d a b) s (fun t => Trapped s t 0x03 va)))

/-! ### Exceptions -/

/-- Taking an exception (R205, R208, R372): the strand is READY at TVEC with INH set, the mode of its team's handler (supervisor mode in a team that the firmware
started, R372), and TCAUSE, TVAL, TPC and TSEQ as the frame's first words, behind which stand SITEPC, ASITE, RPC and TSTATUS; no register changes. The frame stands in its ten blocks, and where no store of the strand was under way no other
byte changes. A cause that the frame's pages do not let in is not delivered. -/
def Obligations.ExceptionEntry : Prop :=
  ∀ (s : State) (i : Nat) (c : Cause) (asy : Bool) (tpc rpc : Word) (ents : List Entry) (rec : List Word),
    let keys := frameKeys s { strandSpace s i with svm := handlerSvm s i } (getStrand s i).spr.tframe .write 10
    let all := (getStrand s i).sentEntries ++ ents
    let ws := frameWords s i c asy tpc rpc all rec
    ws.getD 0 0 = BitVec.ofNat 64 (c.code.toNat + min all.length 8 * 2 ^ 8 + (if asy then 2 ^ 12 else 0)) ∧ ws.getD 1 0 = c.tval ∧ ws.getD 2 0 = tpc ∧
    ws.getD 3 0 = BitVec.ofNat 64 (c.tseq + if c.tseq ≠ 0 ∧ sitePc s (i / 4) c.tseq = none then 2 ^ 63 else 0) ∧ ws.getD 4 0 = (sitePc s (i / 4) c.tseq).getD 0 ∧
    ws.getD 5 0 = c.asite ∧ ws.getD 6 0 = rpc ∧ ws.getD 7 0 = (getStrand s i).tstatus ∧
    (keys = none → deliver s i c asy tpc rpc ents rec = none) ∧
    (∀ ks, keys = some ks → ∃ t, deliver s i c asy tpc rpc ents rec = some t ∧
      let st := getStrand s i
      let st' := getStrand t i
      st'.pc = st.spr.tvec ∧ st'.run = .ready ∧ st'.hold = none ∧ st'.spr.inh = true ∧ st'.spr.svm = handlerSvm s i ∧
      bits st'.spr.tcause 0 8 = c.code ∧ bitsN st'.spr.tcause 8 4 = min all.length 8 ∧ bit st'.spr.tcause 12 = asy ∧
      st'.spr.tval = c.tval ∧ st'.spr.tpc = tpc ∧ (c.tseq < 2 ^ 48 → bitsN st'.spr.tseq 0 48 = c.tseq) ∧ st'.spr.tvec = st.spr.tvec ∧
      st'.spr.tframe = st.spr.tframe ∧ st'.traps.replay = [] ∧ st'.regs = st.regs ∧ t.sec = s.sec ∧ t.teams = s.teams ∧
      (ks.Pairwise (fun a b => a + 64 ≤ b ∨ b + 64 ≤ a) →
        ∀ j k, j < 10 → k < 64 → readByte t (ks.getD j 0 + k) = (wordsBytes ws).getD (64 * j + k) 0) ∧
      (st.view.stores = [] → s.part = [] → ∀ a, (∀ k ∈ ks, a < k ∨ k + 64 ≤ a) → readByte t a = readByte s a))

/-- RTE (R210): INH is cleared, the mode recorded at byte 56 of the frame returns, fetch resumes at RPC and the frame's entries are
re-injected, before any that still stood; with no entry and RPC = 0 the strand goes IDLE. Registers and memory keep their values. In user mode a frame of supervisor mode raises PROTECTION (R291), and NREP above 8
RESERVED_FIELD. -/
def Obligations.ReturnFromException : Prop :=
  ∀ (s : State), Plain s → Direct s → ∀ (ks : List Nat), ks.length = 5 → Blocks s (self s).spr.tframe .read ks →
    let ws := bytesWords (blockBytes s ks) 40
    let ents := (List.range (bitsN (ws.getD 0 0) 8 4)).map (frameEntry ws) ++ (self s).traps.replay
    let u := afterBlocks s (self s).spr.tframe .read ks
    ((self s).spr.svm = false → bit (ws.getD 7 0) 1 = true → Trappable u → NoLockWaits s → Gives .rte s (fun t => Trapped s t 0x05 (s.cur.insn.setWidth 64))) ∧
    (((self s).spr.svm = true ∨ bit (ws.getD 7 0) 1 = false) → 8 < bitsN (ws.getD 0 0) 8 4 → Trappable u → NoLockWaits s →
      Gives .rte s (fun t => Trapped s t 0x02 (s.cur.insn.setWidth 64))) ∧
    (((self s).spr.svm = true ∨ bit (ws.getD 7 0) 1 = false) → bitsN (ws.getD 0 0) 8 4 ≤ 8 →
    Gives .rte s (fun t =>
      let st := getStrand t (me s)
      st.spr = { (self s).spr with inh := false, svm := bit (ws.getD 7 0) 1 } ∧ st.pc = ws.getD 6 0 ∧
      st.traps.replay = ents ∧ st.run = (if ents = [] ∧ ws.getD 6 0 = 0 then .idle else .ready) ∧
      Writes s t 0 0 ∧ OtherStrands s t ∧ SameMemory s t ∧ SameDevices s t))

/-- TRAP, BKPT and YIELD (R204, R291): TRAP hands SYSCALL to the firmware with the pc past it; BKPT enters the handler with cause 7 where no
debugger is attached; YIELD gives up the next turn. -/
def Obligations.TrapBreakpointYield : Prop :=
  ∀ (s : State), Plain s → ∀ (d a b : Reg),
    Gives (.trap d a b) s (fun t =>
      let st := getStrand t (me s)
      st.hold = some .firmware ∧ st.traps.fw = some ({ code := 0x09, tval := s.cur.insn.setWidth 64 }, s.cur.pc) ∧ st.pc = s.cur.pc + 4 ∧
      Writes s t 0 0 ∧ OtherStrands s t ∧ SameMemory s t ∧ SameDevices s t) ∧
    (Trappable s → NoLockWaits s → (self s).spr.dba = false → Gives .bkpt s (fun t => Trapped s t 0x07 (s.cur.insn.setWidth 64))) ∧
    Gives .yield s (fun t => Result s t 0 0 ∧ (getStrand t (me s)).yielded = true ∧ OtherStrands s t ∧ SameModule s t)

/-- Double traps (R206): a sync cause bound for the team of a strand with INH = 1, or with TVEC = 0, or whose frame cannot be written, goes to the firmware, which kills the
team and records both causes in its mailbox event. An async cause in any of these cases makes none: it stays pending. -/
def Obligations.DoubleTraps : Prop :=
  ∀ (s : State) (i : Nat),
    let st := getStrand s i
    let unwritable := frameKeys s { strandSpace s i with svm := handlerSvm s i } st.spr.tframe .write 10 = none
    (∀ (c : Cause) (tpc rpc : Word) (ents : List Entry) (rec : List Word) (tm : Team), teamOf s (i / 4) = some tm → s.teams.find? tm.id = some tm →
      (st.spr.inh = true ∨ st.spr.tvec = 0 ∨ unwritable) →
      let t := toTeam s i c tpc rpc ents rec
      (getTeam t tm.id).state = .killed ∧ (getStrand t i).run = .idle ∧
      Says s t (.event "DOUBLE_TRAP" [BitVec.ofNat 64 tm.id, st.spr.tcause, c.code.setWidth 64] ::
        (if tm.state = .killed then [] else [.event "KILL" [BitVec.ofNat 64 tm.id]]))) ∧
    ((st.spr.inh = true ∨ st.spr.tvec = 0 → deliverAsync s i = s) ∧
      (unwritable → (getStrand (deliverAsync s i) i).traps.pend = st.traps.pend ∧ (deliverAsync s i).teams = s.teams ∧ (deliverAsync s i).host = s.host))

/-- An async cause is delivered when it may be (R212): not under INH, with TVEC set, and where the frame can be written; not to a strand that the
debugger has stopped or the firmware, a KILL or a pre-emption holds, nor in a team that is LOADING, nor while a request with an effect has no response
(R209, R216, R219, R220). The strand, waiting or not, enters its handler with the oldest cause pending. -/
def Obligations.AsyncDelivery : Prop :=
  ∀ (s : State) (r : RegionId) (n : StrandNo) (c : Cause) (rest : List Cause),
    let i := sid r n
    let st := getStrand s i
    let team := (teamOf s (i / 4)).getD {}
    s.MemOk → NoLockWaits s → st.traps.pend = c :: rest → st.spr.inh = false → st.spr.tvec ≠ 0 → st.run ≠ .stopped → st.traps.blocked = false →
    st.traps.due = none → (∀ q ∈ st.sent, q.effect = false ∨ q.gone = true) → team.leave.closed = false → team.state ≠ .loading →
    (∀ h, st.hold = some h → h ≠ .firmware ∧ h ≠ .killed ∧ h ≠ .closed ∧ h ≠ .start) →
    (frameKeys s { strandSpace s i with svm := handlerSvm s i } st.spr.tframe .write 10).isSome = true →
    Gives (.asyncCauseDelivery r n) s (fun t =>
      let st' := getStrand t i
      st'.pc = st.spr.tvec ∧ st'.run = .ready ∧ st'.wait = none ∧ st'.spr.inh = true ∧ bits st'.spr.tcause 0 8 = c.code ∧ bit st'.spr.tcause 12 = true ∧
      st'.spr.tval = c.tval ∧ st'.regs = st.regs)


/-! ### Waits and the tether table -/

/-- WAITGE and CWAIT (R272, R277): a counter at its target, and a number that is not live, complete at once; otherwise the strand is WAITING, and
WAITGE has its COUNTER entry, which carries no owner. -/
def Obligations.CounterAndCommandWaits : Prop :=
  ∀ (s : State), Plain s → Direct s → ∀ (d a b : Reg) (c : BitVec 3) (key : Nat) (pte : Word),
    let va := (self s).reg a
    let target := (self s).reg b
    let seen := BitVec.ofNat 64 (valueAt s key 8)
    let q := bitsN va 0 48
    let cmds := (getRegion s s.cur.reg.toNat).cmds
    (va.toNat % 8 = 0 → Lands s va 8 .read key pte →
      (target.toNat ≤ seen.toNat → Gives (.waitge d a b c) s (fun t => Result s t d seen ∧ OtherStrands s t ∧ SameMemory s t ∧ SameDevices s t)) ∧
      (seen.toNat < target.toNat → MayWait s (memObj key) →
        Gives (.waitge d a b c) s (fun t => Waiting s t (.counter key target) ∧ OtherStrands s t ∧ SameMemory s t ∧ SameDevices s t ∧
          ((self s).spr.tfe = true → ∃ e ∈ t.teth.entries, e.waiter = gidOf s (me s))))) ∧
    (q = 0 ∨ cmds.seq ≤ q → Completes (.cwait d a) s d 1) ∧
    (q ≠ 0 → q < cmds.seq → q ∉ cmds.live → Completes (.cwait d a) s d 0) ∧
    (q ≠ 0 → q < cmds.seq → q ∈ cmds.live → Gives (.cwait d a) s (fun t => Waiting s t (.cwait q) ∧ OtherStrands s t ∧ SameModule s t))

/-- A wait whose condition is met completes with its value (R97, R272, R273, R277): the destination is written, the wait is over, the strand is
READY; its implicit entry is gone (R79); that a USER entry for the same object stays is
the model's reading (log 12). -/
def Obligations.WaitsComplete : Prop :=
  ∀ (s : State) (r : RegionId) (n : StrandNo) (w : Wait) (v : Word),
    let i := sid r n
    s.MemOk → Wakes s i w →
    let woken (j : Instr) (v : Word) : Prop :=
      Gives j s (fun t => Woken s t i w v ∧ (∀ k, k ≠ i → getStrand t k = getStrand s k) ∧ SameMemory s t ∧ SameDevices s t ∧ Unwaited s t i)
    (∀ key target, w.on = .counter key target → w.met = some v → woken (.waitgeSatisfied r n) v) ∧
    (∀ sc e own, w.on = .bar sc e own → w.met = some v → woken (.barReleaseSeen r n) v) ∧
    (∀ q, w.on = .cwait q → q ∉ (getRegion s r.toNat).cmds.live → woken (.cwaitComplete r n) 0)

/-- BAR (R273): the arrival that reaches N releases the epoch and completes, with bit 63 set when its own count is not N; an earlier one
waits with its arrival counted. That the release takes every arrival and leaves the count at 0 is the model's reading (log 14). Scope REGION counts in the region's barrier, scope TEAM in the team's one barrier, whatever the region;
scopes 0, 3 and 4 raise RESERVED_FIELD. -/
def Obligations.Barriers : Prop :=
  ∀ (s : State), Plain s → Direct s → ∀ (d a : Reg) (c : BitVec 3),
    let count := max 1 (bitsN ((self s).reg a) 0 16)
    let word (b : Barrier) : Word := BitVec.ofNat 64 (b.epoch + if count = b.n.getD count then 0 else 2 ^ 63)
    let released (b : Barrier) : Barrier := { epoch := b.epoch + 1, arrived := 0, n := none, ns := b.n.getD count :: b.ns }
    let counted (b : Barrier) : Barrier := { b with arrived := b.arrived + 1, n := some (b.n.getD count) }
    let calm (t : State) : Prop := OthersRunOn s t ∧ SameMemory s t ∧ SameDevices s t
    (let b := (getRegion s s.cur.reg.toNat).barrier
     let after (t : State) : Barrier := (getRegion t s.cur.reg.toNat).barrier
     (b.n.getD count ≤ b.arrived + 1 → Gives (.bar d a 1) s (fun t => Result s t d (word b) ∧ after t = released b ∧ calm t)) ∧
     (b.arrived + 1 < b.n.getD count → MayWait s (barObj s (myTeam s).id 1) →
       Gives (.bar d a 1) s (fun t => Waiting s t (.bar 1 b.epoch count) ∧ after t = counted b ∧ calm t))) ∧
    (∀ tm, TeamHere s tm →
      let b := tm.barrier
      let after (t : State) : Barrier := (getTeam t tm.id).barrier
      (b.n.getD count ≤ b.arrived + 1 → Gives (.bar d a 2) s (fun t => Result s t d (word b) ∧ after t = released b ∧ calm t)) ∧
      (b.arrived + 1 < b.n.getD count → MayWait s (barObj s tm.id 2) →
        Gives (.bar d a 2) s (fun t => Waiting s t (.bar 2 b.epoch count) ∧ after t = counted b ∧ calm t))) ∧
    (c ≠ 1 → c ≠ 2 → Trappable s → NoLockWaits s → Gives (.bar d a c) s (fun t => Trapped s t 0x02 (s.cur.insn.setWidth 64)))

/-- LOCK (R274): a free word becomes the strand's owner word and g[d] is 0; a held word is left, and the strand waits last in its order.
UNLOCK (R275): of the strand's own word, the lock passes to the first waiter, which completes with 1, or the word becomes 0; of any
other word nothing is written and g[d] is 0. The word never reads 0 before a grant. -/
def Obligations.LocksAndUnlocks : Prop :=
  ∀ (s : State), Plain s → Direct s → ∀ (d a : Reg) (c : BitVec 3) (key : Nat) (pte : Word),
    let va := (self s).reg a
    let word := valueAt s key 8
    let mine := word = (ownerWord s (me s)).toNat
    let order (s : State) : List Nat := s.teth.locks.getD key []
    va.toNat % 8 = 0 → Lands s va 8 .atomic key pte →
    (word = 0 → NoLockWaits s →
      Gives (.lock d a c) s (fun t => Result s t d 0 ∧ OthersRunOn s t ∧ SameDevices s t ∧ Stored s t key (toBytes (ownerWord s (me s)) 8))) ∧
    (word ≠ 0 → MayWait s (memObj key) →
      Gives (.lock d a c) s (fun t => Waiting s t (.lock key) ∧ OtherStrands s t ∧ SameMemory s t ∧ SameDevices s t ∧
        order t = order s ++ [me s])) ∧
    (mine → order s = [] → NoLockWaits s →
      Gives (.unlock d a c) s (fun t => Result s t d 1 ∧ OthersRunOn s t ∧ SameDevices s t ∧ Stored s t key (toBytes (0 : Word) 8))) ∧
    (∀ j rest w, (∀ l ∈ s.teth.locks.cells, l.1 ≠ key → l.2 = []) → mine → order s = j :: rest → j ≠ me s → Wakes s j w →
      Gives (.unlock d a c) s (fun t => Result s t d 1 ∧ Woken s t j w 1 ∧ SameDevices s t ∧ order t = rest ∧
        Stored s t key (toBytes (ownerWord s j) 8))) ∧
    (¬mine → Gives (.unlock d a c) s (fun t => Result s t d 0 ∧ OtherStrands s t ∧ SameDevices s t ∧ SameMemory s t))

/-- The tether table (R80, R82–R85, R87, R89, R276). With room TETHER answers 1 and the strand has a USER entry for the object, unless the entry's
walk closes a knot: an owner word of the strand's own raises KNOT of one triple, and the entry is gone. Without room it answers 0 and TOVF counts, or
TETHER_FULL is raised under TFE; a value that is no owner word raises RESERVED_FIELD. UNTETHER removes the entry. The master Ostler takes the oldest walk:
an entry without an owner stays, walked; a waiter tethered to itself takes KNOT, its wait withdrawn. Priorities settle along the entries that changed. -/
def Obligations.TetherTable : Prop :=
  (∀ (s : State), Plain s → Direct s → s.teth.walks = [] → ∀ (d a b : Reg) (key : Nat) (pte : Word),
    let va := (self s).reg a
    let v := (self s).reg b
    let g := gidOf s (me s)
    let x := bitsN v 0 22
    let obj := memObj key
    let room := (s.teth.entries.filter (fun e => tethHome e.obj == tethHome obj)).length < 512
    let calm (t : State) : Prop := OtherStrands s t ∧ SameMemory s t ∧ SameDevices s t
    let tethered (owner : Option Nat) : Prop := Gives (.tether d a b) s (fun t => Result s t d 1 ∧ calm t ∧
      (∃ e ∈ t.teth.entries, e.waiter = g ∧ e.kind = 4 ∧ e.obj = obj ∧ e.owner = owner) ∧ ∀ e ∈ s.teth.entries, e.waiter ≠ g → e ∈ t.teth.entries)
    va.toNat % 8 = 0 → Lands s va 8 .read key pte →
    (v = 0 → room → tethered none) ∧
    (v ≠ 0 → isOwner v = true → room → x ≠ g → (x / 512 ≠ modN s ∨ ∀ e ∈ s.teth.entries, e.waiter = x → e.owner = none) → tethered (some x)) ∧
    (v ≠ 0 → isOwner v = true → room → x = g → Trappable (touched s va key pte 8) → NoLockWaits s →
      Gives (.tether d a b) s (fun t => Trapped s t 0x0B 1 ∧ t.teth.knots = s.teth.knots + 1 ∧ ∀ e ∈ t.teth.entries, e.waiter ≠ g)) ∧
    (v = 0 ∨ isOwner v = true → ¬room →
      ((self s).spr.tfe = false → Gives (.tether d a b) s (fun t => Result s t d 0 ∧ calm t ∧ t.teth.entries = s.teth.entries ∧
        t.teth.tovf = min (s.teth.tovf + 1) (2 ^ 32 - 1))) ∧
      ((self s).spr.tfe = true → Trappable (touched s va key pte 8) → NoLockWaits s →
        Gives (.tether d a b) s (fun t => Trapped s t 0x0C (BitVec.ofNat 64 (tethHome obj))))) ∧
    (v ≠ 0 → isOwner v = false → Trappable (touched s va key pte 8) → NoLockWaits s →
      Gives (.tether d a b) s (fun t => Trapped s t 0x02 (s.cur.insn.setWidth 64))) ∧
    Gives (.untether a) s (fun t => Result s t 0 0 ∧ calm t ∧ (∀ e ∈ t.teth.entries, ¬(e.waiter = g ∧ e.kind = 4 ∧ e.obj = obj)) ∧
      ((∀ e ∈ s.teth.entries, ¬(e.waiter = g ∧ e.kind = 4 ∧ e.obj = obj)) → t.teth.entries = s.teth.entries) ∧
      ∀ e ∈ s.teth.entries, e.waiter ≠ g → e ∈ t.teth.entries)) ∧
  (∀ (s : State), s.MemOk →
    (∀ g rest e, s.teth.walks = g :: rest → s.teth.entries.find? (fun e => e.waiter == g) = some e →
      (e.owner = none → Gives .tetherWalk s (fun t => t.teth.walks = rest ∧ t.teth.serial = s.teth.serial + 1 ∧ t.teth.knots = s.teth.knots ∧
        t.teth.entries = s.teth.entries.map (fun f => if f.waiter == g then { f with seen := true } else f) ∧ t.strands = s.strands ∧
        SameMemory s t ∧ SameDevices s t)) ∧
      (∀ i w, e.owner = some g → i = g % 512 → (getStrand s i).wait = some w → (getStrand s i).spr.inh = false → (getStrand s i).spr.tvec ≠ 0 →
        (frameKeys s { strandSpace s i with svm := handlerSvm s i } (getStrand s i).spr.tframe .write 10).isSome = true → NoLockWaits s →
        Gives .tetherWalk s (fun t => t.teth.knots = s.teth.knots + 1 ∧ (∀ f ∈ t.teth.entries, f.waiter ≠ g) ∧
          let st := getStrand t i
          st.wait = none ∧ st.run = .ready ∧ st.pc = (getStrand s i).spr.tvec ∧ bits st.spr.tcause 0 8 = 0x0B ∧ st.spr.tval = 1 ∧ st.spr.tpc = w.pc ∧
          st.regs = (getStrand s i).regs))) ∧
    (let settled (j : Nat) (p : BitVec 3) : Prop := Gives .priorityPropagate s (fun t => (getStrand t j).spr.eprio = p ∧ t.teth.dirty = [] ∧
       (∀ i, (getStrand t i).regs = (getStrand s i).regs) ∧ SameMemory s t)
     (∀ j ∈ s.teth.dirty, s.teth.entries = [] → settled j (getStrand s j).spr.prio) ∧
     (∀ j e, s.teth.dirty = [j] → s.teth.entries = [e] → e.owner = some (gidOf s j) → e.waiter ≠ gidOf s j →
       (getStrand s j).spr.prio.toNat < e.prio.toNat → settled j e.prio)))


/-! ### Commands offered, ports, messages -/

/-- CMD and CMDR (R107, R124, R211, R238, R278, R314): an accepted command takes the region's next number, is logged, joins its queue (BARRIER joins all 33) and
g[d] is its number; RESUME joins none and begins at once. Of a full queue g[d] is 0 and no number is taken; a command that the checks refuse spends its number
and traps; a QUOTA trap that is due is taken at this boundary. -/
def Obligations.CommandsOffered : Prop :=
  ∀ (s : State), Plain s → ∀ (d a b : Reg) (w : BitVec 128) (key : Nat) (pte : Word),
    let r := s.cur.reg.toNat
    let op := bitsN w 120 8
    let q := cmdQueue w
    let n := (getRegion s r).cmds.seq
    let c : QCmd := { num := n, word := w, strand := s.cur.str }
    let va := (self s).reg a
    let read := va.toNat % 16 = 0 ∧ Lands s va 16 .read key pte ∧ w = BitVec.ofNat 128 (valueAt s key 16)
    let pair := w = va ++ (self s).reg b
    let calm (t : State) : Prop := OtherStrands s t ∧ SameMemory s t ∧ SameDevices s t
    let spent (t : State) : Prop := (getRegion t r).cmds.seq = (n + 1) % 2 ^ 48
    let accepted (t : State) : Prop :=
      Result s t d (BitVec.ofNat 64 n) ∧ spent t ∧ n ∈ (getRegion t r).cmds.live ∧
      (getStrand t (me s)).cmdlog.find? (n % 1024) = some (n, s.cur.pc) ∧
      (∀ k, queueOf t r k = if k = q ∨ (op = 0x08 ∧ k < 33) then queueOf s r k ++ [c] else queueOf s r k) ∧ calm t
    (Direct s → (myTeam s).energy.due = 0 →
      (q ≠ 33 →
        (∀ i, decodeCmd w = .ok i → (cmdSv op = false ∨ (self s).spr.svm = true) → (queueOf s r q).length < 16 →
          (read → Gives (.cmd d a) s accepted) ∧ (pair → Gives (.cmdr d a b) s accepted)) ∧
        (16 ≤ (queueOf s r q).length →
          (read → Gives (.cmd d a) s (fun t => Result s t d 0 ∧ t.regions = s.regions ∧ calm t)) ∧ (pair → Completes (.cmdr d a b) s d 0)) ∧
        (pair → (queueOf s r q).length < 16 → Trappable s → NoLockWaits s →
          (decodeCmd w = .error .illegalOp → Gives (.cmdr d a b) s (fun t => Trapped s t 0x01 (BitVec.ofNat 64 op) ∧ spent t)) ∧
          (∀ e, decodeCmd w = .error e → e ≠ .illegalOp → Gives (.cmdr d a b) s (fun t => Trapped s t 0x02 (bits w 64 64) ∧ spent t)) ∧
          (∀ i, decodeCmd w = .ok i → cmdSv op = true → (self s).spr.svm = false →
            Gives (.cmdr d a b) s (fun t => Trapped s t 0x05 0 ∧ spent t)))) ∧
      (∀ act id u, pair → decodeCmd w = .ok (.resume act id u) →
        Gives (.cmdr d a b) s (fun t => Writes s t d (BitVec.ofNat 64 n) ∧ (getStrand t (me s)).pc = s.cur.pc + 4 ∧ (getStrand t (me s)).run = .ready ∧ spent t))) ∧
    (∀ tm, TeamHere s tm → 0 < tm.energy.due → Trappable s → NoLockWaits s →
      Gives (.cmdr d a b) s (fun t => Trapped s t 0x0D (BitVec.ofInt 64 tm.energy.remain) ∧ (getTeam t tm.id).energy.due = tm.energy.due - 1) ∧
      Gives (.cmd d a) s (fun t => Trapped s t 0x0D (BitVec.ofInt 64 tm.energy.remain) ∧ (getTeam t tm.id).energy.due = tm.energy.due - 1))

/-- PORTRD and PORTWR (R79, R141, R179, R279–R281). Of a stream port PORTRD stores the head's token, marker or gap and takes it, and g[d] is its sideband; an empty head answers EMPTY; that a gap at the head answers as a GAP token is the model's reading (log 19). PORTWR emits a marker, or the
record that its token completes; a sideband out of place is refused. Of a QUEUE port PORTRD stores the oldest entry and CONSUMED counts up; an empty one it waits for, and once an entry stands there the wait completes with its sideband.
Where the destination and the ring's counter lie apart, nothing else changes in memory. -/
def Obligations.PortAccesses : Prop :=
  (∀ (s : State), Plain s → Direct s → NoLockWaits s → ∀ (d a b : Reg) (p key : Nat) (pte : Word),
    let r := s.cur.reg.toNat
    let va := (self s).reg a
    let v := (self s).reg b
    p < 32 → bitsN v 0 16 = p → bitsN v 16 16 = 0 → va.toNat % 64 = 0 →
    (∀ cb, bitsN v 32 8 = 0 → inPort s r p = some cb → portBusy s r p true = false →
      let buf (s : State) : List Item := (getBranch s cb.1 cb.2).buf
      let seen := (getBranch s cb.1 cb.2).seen s.clock
      let turn := (getBranch s cb.1 cb.2).mayAct s.clock 1 = true
      let taken (pay : Line) (side : BitVec 24) (left : List Item) : Prop :=
        Gives (.portrd d a b) s (fun t => Result s t d (side.setWidth 64) ∧ OthersRunOn s t ∧ Stored s t key (toBytes pay 64) ∧ buf t = left)
      (¬turn → Completes (.portrd d a b) s d portEmpty) ∧
      (seen = .nothing → (getBranch s cb.1 cb.2).coming s.clock (getChan s cb.1).head = none → Completes (.portrd d a b) s d portEmpty) ∧
      (turn → Lands s va 64 .write key pte →
        (∀ m, seen = .mark m → taken m.pay m.side (buf s).tail) ∧
        (∀ i k, seen = .record i → i.toks = [k] → (getPort s r p).place = 0 → taken k.pay k.side (buf s).tail) ∧
        (∀ g i rest, seen = .gap g → buf s = i :: rest →
          taken (gapTok g).pay (gapTok g).side ({ i with gaps := i.gaps.tail } :: rest)))) ∧
    (bitsN v 32 8 = 0 → inPort s r p = none → Completes (.portrd d a b) s d (portRefused 2)) ∧
    (∀ ch, bitsN v 32 8 = 0 → outPort s r p = some ch → portBusy s r p false = false → Lands s va 64 .read key pte →
      let pay : Line := BitVec.ofNat 512 (valueAt s key 64)
      let side : BitVec 24 := bits v 40 24
      let prl := Head.prl (getChan s ch).head
      let part := (getPort s r p).part
      let ok := sidePlace side pay prl part = true
      let writes (v : Word) (P : State → Prop) : Prop := Gives (.portwr d a b) s (fun t => Result s t d v ∧ OtherStrands s t ∧ SameMemory s t ∧ P t)
      (ok → Sb.isMark side = true → writes 0 (fun t => Emits s t ch 1 [⟨pay, side⟩])) ∧
      (ok → Sb.isMark side = false → prl ≤ part.length + 1 →
        writes 0 (fun t => Emits s t ch 1 (part.map (fun q => ⟨q.1, q.2⟩) ++ [⟨pay, side⟩]) ∧ (getPort t r p).part = [])) ∧
      (ok → Sb.isMark side = false → part.length + 1 < prl →
        writes 0 (fun t => SameBranches s t ch ∧ (getPort t r p).part = part ++ [(pay, side)])) ∧
      (¬ok → writes (portRefused 5) (fun t => t.chans = s.chans ∧ t.regions = s.regions))) ∧
    (bitsN v 32 8 = 0 → outPort s r p = none → Completes (.portwr d a b) s d (portRefused 2))) ∧
  (∀ (s : State), Plain s → Direct s → ∀ (d a b : Reg) (p key : Nat) (pte : Word),
    let va := (self s).reg a
    let v := (self s).reg b
    let desc := (getIPort s p).desc
    va.toNat % 64 = 0 → bitsN v 0 16 = p → bitsN v 16 15 = 0 → bit v 31 = true → bitsN v 32 8 = 0 →
    (Pd.mode desc = 3 → Pd.atag desc = (myTeam s).atag →
      (readRing s p = none → MayWait s (portObj s p) →
        Gives (.portrd d a b) s (fun t => Waiting s t (.queue p) ∧ OtherStrands s t ∧ SameMemory s t ∧ SameDevices s t)) ∧
      (∀ x c k, readRing s p = some x → Lands s va 64 .write key pte → NoLockWaits s → portSpace s desc = some c →
        let u := writeBytes (touched s va key pte 64) key (toBytes x.1 64)
        (readRing u p).map (fun y => y.2.1) = some x.2.1 → counterKeys u c desc .write = some k → k.2 + 8 ≤ key ∨ key + 64 ≤ k.2 →
        Gives (.portrd d a b) s (fun t => Result s t d (x.2.1.setWidth 64) ∧ OthersRunOn s t ∧ valueAt t k.2 8 = (valueAt s k.2 8 + 1) % 2 ^ 64 ∧
          (∀ j, j < 64 → memRead t.mem (key + j) = (toBytes x.1 64).getD j 0) ∧
          ∀ m, (m < key ∨ key + 64 ≤ m) → (m < k.2 ∨ k.2 + 8 ≤ m) → memRead t.mem m = memRead s.mem m))) ∧
    (Pd.mode desc ≠ 3 ∨ Pd.atag desc ≠ (myTeam s).atag → Completes (.portrd d a b) s d (portRefused 4))) ∧
  (∀ (s : State) (r : RegionId) (t : StrandNo) (w : Wait) (p key : Nat) (pte : Word) (x : Line × BitVec 24 × State) (c : Space) (k : Nat × Nat),
    let i := sid r t
    let desc := (getIPort s p).desc
    let u : State := { s with cur := { reg := r, str := t, pc := w.pc, insn := w.insn, cap := some (w.opa, w.opb) } }
    let u' := writeBytes (touched u w.opa key pte 64) key (toBytes x.1 64)
    s.MemOk → NoLockWaits s → Wakes s i w → w.on = .queue p → Direct u → readRing s p = some x → Lands u w.opa 64 .write key pte →
    portSpace s desc = some c → (readRing u' p).map (fun y => y.2.1) = some x.2.1 → counterKeys u' c desc .write = some k →
    k.2 + 8 ≤ key ∨ key + 64 ≤ k.2 →
    Gives (.portrdWake r t) s (fun t' =>
      Woken s t' i { w with dst := fieldD w.insn } (x.2.1.setWidth 64) ∧ Unwaited s t' i ∧ valueAt t' k.2 8 = (valueAt s k.2 8 + 1) % 2 ^ 64 ∧
      (∀ j, j < 64 → memRead t'.mem (key + j) = (toBytes x.1 64).getD j 0) ∧
      ∀ m, (m < key ∨ key + 64 ≤ m) → (m < k.2 ∨ k.2 + 8 ≤ m) → memRead t'.mem m = memRead s.mem m))

/-- ENQ (R22, R282) and what a strand's message becomes: a packet of class C0 with the next number of its stream waits on its die, and the
strand has one more message in flight; 1 when 16 are in flight or the die's queue is full, 2 for a bad destination. -/
def Obligations.MessagesEnqueued : Prop :=
  ∀ (s : State), Plain s → Direct s → ∀ (d a b : Reg) (key : Nat) (pte : Word),
    let va := (self s).reg a
    let v := (self s).reg b
    let i := me s
    let die := regionDie s.cur.reg.toNat
    let dmod := bitsN v 51 13
    let hdr (n : Nat) : BitVec 128 := mkHdr dmod (bitsN v 11 5) (bitsN v 0 11) (modN s) i 0 (myTeam s).atag n 1 0
    let n := s.fab.seqs.getD (Hp.stream { hdr := hdr 0 }) 0
    let good := bitsN v 16 35 = 0 ∧ s.fab.written = true ∧ (dmod = modN s ∨ routeValid s dmod = true)
    let room := (self s).c0 < 16 ∧ s.fab.c0q.getD die 0 < 256
    let enq (v : Word) (P : State → Prop) : Prop := Gives (.enq d a b) s (fun t => Result s t d v ∧ OtherStrands s t ∧ SameMemory s t ∧ P t)
    va.toNat % 64 = 0 → Lands s va 64 .read key pte →
    (good → room → enq 0 (fun t =>
      t.fab.inbound = s.fab.inbound ++ [{ hdr := hdr n, pay := [BitVec.ofNat 512 (valueAt s key 64)], here := die }] ∧ (getStrand t i).c0 = (self s).c0 + 1 ∧
      t.fab.c0q.getD die 0 = s.fab.c0q.getD die 0 + 1 ∧ t.fab.seqs.getD (Hp.stream { hdr := hdr 0 }) 0 = (n + 1) % 65536)) ∧
    (good → ¬room → enq 1 (fun t => t.fab = s.fab)) ∧
    (¬good → enq 2 (fun t => t.fab = s.fab))

/-! ### Reductions -/

/-- Reductions (R18, R29–R32, R283). RSEND sends the strand's contribution of its next epoch in a C2 packet, empty or read from memory, and g[d] is that epoch; RRECV stores the oldest result and its mask, here to a buffer that begins at a line, takes it, and
g[d] is its word; a tree that is not the team's is refused, and without a result the strand is held and the instruction stands unfinished. A contribution that completes its node's epoch is folded at once: at the root the sum joins the
results, elsewhere it goes to the parent; one of an epoch that is over, or not yet next, counts as late; at its time a node sends what it holds. The mask's place in the C2 packet and
the way of a contribution are the model's choice (log 34). -/
def Obligations.Reductions : Prop :=
  (∀ (s : State), Plain s → Direct s → NoLockWaits s → ∀ (d a b : Reg) (ks : List Nat),
    let r := s.cur.reg.toNat
    let va := (self s).reg a
    let g := (self s).reg b
    let id := bitsN g 0 6
    let tree (s : State) : Tree := s.trees.getD id {}
    (teamTree s (myTeam s).id id = none → Completes (.rsend d a b) s d redRefused ∧ Completes (.rrecv d a b) s d redRefused) ∧
    (∀ t n k, bitsN g 6 2 = 0 → bitsN g 9 55 = 0 → teamTree s (myTeam s).id id = some t → t.node r = some n → n.slot s.cur.str.toNat = some k →
      let e := (self s).epochs.getD id 0
      let sends (v : Option (List Line)) : Prop := Gives (.rsend d a b) s (fun t' =>
        Result s t' d (BitVec.ofNat 64 (e % 65536)) ∧ OtherStrands s t' ∧ SameMemory s t' ∧ (getStrand t' (me s)).epochs.getD id 0 = e + 1 ∧ t'.trees = s.trees ∧
        t'.fab.inbound = s.fab.inbound ++ [
          { hdr := mkHdr (modN s) (regionDie r) (id + k * 64) (modN s) (me s) 2 (getTeam s t.team).atag 0 (v.getD []).length
              (e % 65536 * 2 ^ 15 + if v.isNone then 2 ^ 14 else 0)
            addr := 0, pay := v.getD [], here := regionDie r }])
      e < n.epoch + 2 →
      (bit g 8 = true → sends none) ∧
      (bit g 8 = false → va.toNat % 64 = 0 → t.len < 5 → ks.length = t.len → Blocks s va .read ks → sends (some (linesOf (blockBytes s ks) t.len)))) ∧
    (∀ t, bitsN g 6 58 = 0 → teamTree s (myTeam s).id id = some t →
      t.nodes.any (fun n => n.parent.isNone && n.reg.toNat == r && n.rstr == s.cur.str) = true →
      (t.results = [] → Gives (.rrecv d a b) s (fun t' => (getStrand t' (me s)).hold = some (.rrecv (BitVec.ofNat 6 id)) ∧ Writes s t' 0 0 ∧
        (getStrand t' (me s)).pc = s.cur.pc + 4 ∧ (getStrand t' (me s)).traps.replay.map (·.st) = 1 :: (self s).traps.replay.map (·.st) ∧
        OtherStrands s t' ∧ SameModule s t')) ∧
      (∀ x rest, t.results = x :: rest → x.mask = 0 → (∀ v, x.val = some v → v.length = t.len) → va.toNat % 64 = 0 → ks.length = t.len + 1 → Blocks s va .write ks →
        Gives (.rrecv d a b) s (fun t' =>
          Result s t' d (BitVec.ofNat 64 (x.epoch % 65536 + (if x.val.isNone then 2 ^ 61 else 0))) ∧ OthersRunOn s t' ∧
          tree t' = { t with results := rest, next := x.epoch + 1 } ∧
          (∀ j, j < 16 → memRead t'.mem (ks.getD t.len 0 + j) = 0) ∧
          (ks.Pairwise (fun p q => p + 64 ≤ q ∨ q + 64 ≤ p) → ∀ v, x.val = some v → ∀ m j, m < t.len → j < 64 →
            memRead t'.mem (ks.getD m 0 + j) = (toBytes (v.getD m 0) 64).getD j 0) ∧
          ∀ m, (∀ k ∈ ks, m < k ∨ k + 64 ≤ m) → memRead t'.mem m = memRead s.mem m)))) ∧
  (∀ (s : State) (id : BitVec 6) (r : RegionId) (t : Tree) (n : Node), s.MemOk → s.trees.find? id.toNat = some t → t.node r.toNat = some n →
    let tree (s : State) : Tree := s.trees.getD id.toNat {}
    let sum (n : Node) : Contrib := let x := foldNode t n; { epoch := n.epoch, val := x.1, mask := x.2 }
    (∀ p, s.fab.inbound.find? (contribFor s id.toNat n) = some p →
      let c := contribOf n p
      let n' : Node := { n with held := n.held ++ [c] }
      let left := s.fab.inbound.erase p
      let arrives (P : State → Prop) : Prop :=
        Gives (.redContributionArrive id r) s (fun t' => P t' ∧ SameMemory s t' ∧ t'.strands = s.strands)
      (∀ v, c.val = some v → v.length = t.len) →
      (c.epoch < n.epoch ∨ n.epoch + 1 < c.epoch → arrives (fun t' => tree t' = { t with late := t.late + 1 } ∧ t'.fab.inbound = left)) ∧
      (c.epoch = n.epoch → n'.complete = false →
        arrives (fun t' => t'.fab.inbound = left ∧ ((tree t').node r.toNat).map (·.held) = some n'.held ∧ (tree t').late = t.late)) ∧
      (c.epoch = n.epoch → n'.complete = true → n.parent = none →
        arrives (fun t' => ∃ more, (tree t').results = t.results ++ sum n' :: more)) ∧
      (∀ q up, c.epoch = n.epoch → n'.complete = true → n.parent = some q → t.node q.toNat = some up → q ≠ r →
        arrives (fun t' => ∃ p' ∈ t'.fab.inbound, p'.pay = (sum n').val.getD [] ∧ p'.addr = BitVec.ofNat 512 (sum n').mask.toNat ∧
          p'.hdr = mkHdr (modN s) (regionDie q.toNat) (id.toNat + (up.kids.findIdx? (fun k => k == .node n.reg)).getD 0 * 64) (modN s) (n.reg.toNat * 4) 2
            (getTeam s t.team).atag 0 ((sum n').val.getD []).length (n.epoch % 65536 * 2 ^ 15 + if (sum n').val.isNone then 2 ^ 14 else 0)))) ∧
    (∀ c, n.due = some c → c ≤ s.clock → n.parent = none →
      Gives (.redNodeTimeout id r) s (fun t' => (∃ more, (tree t').results = t.results ++ sum n :: more) ∧ SameMemory s t' ∧ t'.strands = s.strands)))


/-! ### Launches, strands, tasks, regions -/

/-- LAUNCH and SVLAUNCH (R45, R46, R59, R60, R284, R372): an accepted packet becomes a team with the next id, in DEPWAIT or QUEUED, last in its queue; the
LAUNCH takes a number for g[d]; a refused one answers its reason, and a refusal of the loader's checks is logged. A full queue answers 6, and BUSY. A launch whose
counters have reached their targets, now or at an earlier write, is QUEUED (R66). How the packet is read (log 24) and the
vector of the mailbox's answer (log 54) are the model's choice. -/
def Obligations.Launches : Prop :=
  (∀ (s : State), Plain s → Direct s → ∀ (d a : Reg) (key : Nat) (pte : Word),
    let va := (self s).reg a
    let r := s.cur.reg.toNat
    let pay : Line := BitVec.ofNat 512 (valueAt s key 64)
    let queue := regionDie r * 2050 + 2048
    let read := (loadBytes (touched s va key pte 64) (me s) key 64).2
    let v := checkLaunch read pay (strandSpace s (me s)) false
    let room := (s.ost.queues.getD queue []).length < 64 ∧ launchRoom s = true
    let n := (getRegion s r).cmds.seq
    let calm (t : State) : Prop := OtherStrands s t ∧ SameMemory s t
    va.toNat % 64 = 0 → Lands s va 64 .read key pte →
    (room → v.reason = 0 → Gives (.launch d a) s (fun t => Result s t d (BitVec.ofNat 64 n) ∧ calm t ∧
      (getRegion t r).cmds.seq = (n + 1) % 2 ^ 48 ∧ t.ost.nextTeam = s.ost.nextTeam + 1 ∧
      t.ost.queues.getD queue [] = s.ost.queues.getD queue [] ++ [s.ost.nextTeam] ∧
      (getTeam t s.ost.nextTeam).state = (if v.deps.isEmpty then .queued else .depwait) ∧ (getTeam t s.ost.nextTeam).prio = Lp.prio pay ∧
      (getTeam t s.ost.nextTeam).packet = pay ∧ (getTeam t s.ost.nextTeam).svm = false ∧ Says s t [])) ∧
    (room → v.reason ≠ 0 → Gives (.launch d a) s (fun t => Result s t d (BitVec.ofNat 64 (2 ^ 63 + v.reason)) ∧ calm t ∧ t.ost = s.ost ∧ t.teams = s.teams ∧
      Says s t (if v.reason = 3 then [.event "REFUSAL" [BitVec.ofNat 64 (2 ^ 32 + gidOf s (me s)), v.record]] else []))) ∧
    (¬room → Gives (.launch d a) s (fun t => Result s t d (BitVec.ofNat 64 (2 ^ 63 + 6)) ∧ calm t ∧ t.ost = s.ost ∧ t.teams = s.teams))) ∧
  (∀ (s : State) (packet : Line), s.MemOk →
    let v := checkLaunch s packet { svm := true } true
    let room := (s.ost.queues.getD 2049 []).length < 64 ∧ launchRoom s = true
    let serves := s.sec.ready = true ∧ s.sec.lcs ≠ .retired
    let refuses (os : List Out) (why : String) : Prop := Gives (.svlaunch packet) s (fun t => t.strands = s.strands ∧ SameMemory s t ∧ t.ost = s.ost ∧
      t.teams = s.teams ∧ Says s t (os ++ [.refuse "SVLAUNCH" why, .msix 0]))
    (serves → room → s.part = [] → v.reason = 0 → Gives (.svlaunch packet) s (fun t => SameMemory s t ∧
      t.ost.queues.getD 2049 [] = s.ost.queues.getD 2049 [] ++ [s.ost.nextTeam] ∧ (getTeam t s.ost.nextTeam).svm = true ∧
      Says s t [.reply "SVLAUNCH" [BitVec.ofNat 64 s.ost.nextTeam], .msix 0])) ∧
    (serves → room → (v.reason = 1 → refuses [] "RESERVED") ∧ (v.reason = 2 → refuses [] "NOIMG") ∧
      (v.reason = 3 → refuses [.event "REFUSAL" [BitVec.ofNat 64 (2 ^ 33), v.record]] "INVALID")) ∧
    (serves → ¬room → refuses [] "BUSY") ∧
    (¬serves → refuses [] "RESERVED")) ∧
  (∀ (s : State) (id : TeamId) (tm : Team), s.MemOk → TeamAt s id tm → tm.state = .depwait →
    (tm.depsMet = true ∨ (∀ q ∈ tm.deps, q.2.toNat ≤ valueAt s q.1 8) →
      Gives (.dependenceCheck id) s (fun t => t.teams = s.teams.put id.toNat { tm with state := .queued, since := s.clock } ∧ t.strands = s.strands ∧ SameMemory s t)) ∧
    (tm.depsMet = false → (∃ q ∈ tm.deps, valueAt s q.1 8 < q.2.toNat) →
      Gives (.dependenceCheck id) s (fun t => t.teams = s.teams ∧ t.strands = s.strands ∧ SameMemory s t)))

/-- Strands, tasks and job cards (R69, R71–R73, R174, R285, R286). STRAND starts the lowest other IDLE strand with its argument in g1 and g30 kept, or answers −1; with a job card it posts it, refuses a malformed
one with 1 and a second one with 2. Outside a task TASKEND and TEAMEND leave the strand IDLE, and the last TEAMEND's team is RETIRING; at the end of a task its buffer is written and its next one of the chunk starts. An IDLE strand 0 of a RUNNING team gets
a task of its die's retry queue, else the next chunk of fresh tasks; the card ends when nothing is left to deal or to run: JSTAT is written, then JDONE counts up by one. -/
def Obligations.StrandsAndTasks : Prop :=
  (∀ (s : State), Plain s → NoLockWaits s → ∀ (d a b : Reg) (c : BitVec 3),
    let r := s.cur.reg.toNat
    let z := r * 4
    let idle (n : Nat) : Prop := (getStrand s (z + n)).run = .idle
    let va := (self s).reg a
    (∀ n, Direct s → n < 4 → n ≠ s.cur.str.toNat → idle n → (∀ k, k < n → k ≠ s.cur.str.toNat → ¬idle k) →
      Gives (.strand d a b 0) s (fun t => Result s t d (BitVec.ofNat 64 n) ∧ SameMemory s t ∧ SameDevices s t ∧
        let st := getStrand t (z + n)
        st.run = .ready ∧ st.pc = va ∧ st.wait = none ∧ st.hold = none ∧
        ∀ g, st.reg g = if g = 1 then (self s).reg b else if g = 30 then (getStrand s (z + n)).reg 30 else 0)) ∧
    (Direct s → (∀ n, n < 4 → n ≠ s.cur.str.toNat → ¬idle n) → Completes (.strand d a b 0) s d (-1)) ∧
    (∀ key pte tm, Direct s → va.toNat % 64 = 0 → Lands s va 64 .read key pte → TeamHere s tm →
      let card := cardOf (bytesWords ((List.range 64).map (fun j => memRead s.mem (key + j))) 8)
      let n := (getRegion s r).cmds.seq
      let posts (v : Word) (k : Option Card) : Prop :=
        Gives (.strand d a 0 2) s (fun t => Result s t d v ∧ OtherStrands s t ∧ SameMemory s t ∧ (getTeam t tm.id).card = k)
      (card = none → posts (refusal 1) tm.card) ∧
      (card ≠ none → tm.card ≠ none → posts (refusal 2) tm.card) ∧
      (card ≠ none → tm.card = none → posts (BitVec.ofNat 64 n) card)) ∧
    (c ≠ 0 → (c ≠ 2 ∨ b ≠ 0) → Trappable s → Gives (.strand d a b c) s (fun t => Trapped s t 0x02 (s.cur.insn.setWidth 64))) ∧
    ((self s).task = none →
      Gives .taskend s (fun t => (getStrand t (me s)).run = .idle ∧ Writes s t 0 0 ∧ OtherStrands s t ∧ SameMemory s t) ∧
      Gives .teamend s (fun t => (getStrand t (me s)).run = .idle ∧ (getStrand t (me s)).ended = true ∧ Writes s t 0 0 ∧ OtherStrands s t ∧ SameMemory s t ∧
        ∀ tm, TeamHere s tm → tm.state = .running → tm.card = none → (∀ i ∈ tm.strands, i ≠ me s → (getStrand s i).run = .idle) →
          (getTeam t tm.id).state = .retiring)) ∧
    (∀ k card tm, s.cur.str = 0 → (self s).task = some k → startedBusy s z = false → awayLines s z = [] → TeamHere s tm → tm.card = some card →
      Gives .taskend s (fun t =>
        let st := getStrand t z
        (∀ l, (self s).wbuf = [l] → ∀ j x, j < 64 → l.2[j]? = some (some x) → memRead t.mem (l.1 * 64 + j) = x) ∧ st.wbuf = [] ∧
        (0 < k.rest → st.run = .ready ∧ st.pc = card.entry ∧ st.task = some { index := k.index + 1, rest := k.rest - 1 } ∧
          st.reg 1 = card.args + BitVec.ofNat 64 ((k.index + 1) * card.rsz) ∧ st.reg 2 = BitVec.ofNat 64 (k.index + 1) ∧ st.reg 3 = 0) ∧
        (k.rest = 0 → st.run = .idle ∧ st.task = none)))) ∧
  (∀ (s : State) (r : RegionId) (id : TeamId) (tm : Team) (card : Card), s.MemOk → NoLockWaits s → TeamAt s id tm →
    tm.state = .running → tm.card = some card →
    (teamOf s r.toNat = some tm → (getStrand s (r.toNat * 4)).run = .idle → (getStrand s (r.toNat * 4)).task = none →
      let deals (index attempt rest : Nat) (after : Card) : Prop := Gives (.taskDeal r) s (fun t =>
        let st := getStrand t (r.toNat * 4)
        st.run = .ready ∧ st.pc = card.entry ∧ st.task = some { index := index, attempt := attempt, rest := rest } ∧
        st.reg 1 = card.args + BitVec.ofNat 64 (index * card.rsz) ∧ st.reg 2 = BitVec.ofNat 64 index ∧ st.reg 3 = BitVec.ofNat 64 attempt ∧
        (getTeam t id.toNat).card = some after ∧ SameMemory s t)
      (card.queue = [] → 0 < card.remaining →
        let n := max 1 ((card.remaining + 2 * tm.regions.length - 1) / (2 * tm.regions.length))
        deals (card.n - card.remaining) 0 (n - 1) { card with remaining := card.remaining - n }) ∧
      (∀ q, card.queue = [q] → q.die = regionDie r.toNat → (q.dealt = true ∨ q.last ≠ r.toNat) →
        deals q.index q.attempt 0 { card with queue := [] })) ∧
    (card.queue = [] → card.remaining = 0 → s.part = [] → (∀ q ∈ tm.regions, (getStrand s (q * 4)).task = none) →
      (∀ i ∈ tm.strands, (getStrand s i).view.stores = []) →
      let stat : Word := BitVec.ofNat 64 ((if card.failed.isSome then 2 ^ 56 else 0) + card.used * 2 ^ 32 + card.failed.getD 0)
      (card.jdone = 0 → card.jstat = 0 → Gives (.jobCardEnd id) s (fun t => (getTeam t id.toNat).card = none ∧ SameMemory s t)) ∧
      (∀ q, card.jdone ≠ 0 → card.jstat = 0 → wordKey s (tm.space tm.svm) card.jdone = some q →
        Gives (.jobCardEnd id) s (fun t => (getTeam t id.toNat).card = none ∧
          Stored s t q.1 (toBytes (BitVec.ofNat 64 (valueAt s q.1 8 + 1)) 8))) ∧
      (∀ q, card.jdone = 0 → card.jstat ≠ 0 → wordKey s (tm.space tm.svm) card.jstat = some q →
        Gives (.jobCardEnd id) s (fun t => (getTeam t id.toNat).card = none ∧ Stored s t q.1 (toBytes stat 8)))))

/-- RELEASE (R70, R287): g[d] is 0 and the team has the new shape, or a refusal word with bit 63 and the reason: 5 for a shape that does not fit, 1 when the strand would lose its own
region, 2 when nothing is released; reason 5 for a wider or higher
shape (log 16) and the places of the shape's fields (log 24) are the model's choice. GAIT (R93, R288): every tile of the rectangle records the requested gait, except one that an actor of its own has asked for on this clock (R341);
1 outside the team, 0 for an empty rectangle. -/
def Obligations.ReleaseAndGait : Prop :=
  ∀ (s : State), Plain s → NoLockWaits s → ∀ (d a b : Reg) (tm : Team), TeamHere s tm →
    let v := (self s).reg a
    let r := s.cur.reg.toNat
    let w := 2 ^ bitsN v 0 3
    let h := 2 ^ bitsN v 3 2
    let span := rectRegions tm.x tm.y w h
    let gone := tm.regions.filter (fun q => !span.contains q)
    let fits := bitsN v 5 59 = 0 ∧ w ≤ tm.w ∧ h ≤ tm.h
    (¬fits → Completes (.release d a) s d (refusal 5)) ∧
    (fits → r ∉ span → Completes (.release d a) s d (refusal 1)) ∧
    (fits → r ∈ span → gone = [] → Completes (.release d a) s d (refusal 2)) ∧
    (fits → r ∈ span → gone ≠ [] → (∃ q ∈ gone, ∃ n, n < 4 ∧ (getStrand s (q * 4 + n)).run ≠ .idle) → Completes (.release d a) s d (refusal 3)) ∧
    (fits → r ∈ span → gone ≠ [] → (∀ q ∈ gone, ∀ n, n < 4 → (getStrand s (q * 4 + n)).run = .idle) →
      (∀ q ∈ gone, regionFlying s tm.id q = false) →
      Gives (.release d a) s (fun t => Result s t d 0 ∧ (getTeam t tm.id).w = w ∧ (getTeam t tm.id).h = h ∧
        ∀ q ∈ gone, ∀ k, k < 256 → (getTile t q k).ctxs = {} ∧ (getTile t q k).gait.req = 0)) ∧
    (let m := (self s).reg b
     let q := rectOf v
     (bitsN m 2 62 ≠ 0 ∨ bitsN m 0 2 = 3 → Trappable s → Gives (.gait d a b) s (fun t => Trapped s t 0x02 (s.cur.insn.setWidth 64))) ∧
     (m = 0 ∨ m = 1 ∨ m = 2 →
      (q.empty = true → Completes (.gait d a b) s d 0) ∧
      (q.empty = false → q.inTeam tm = false → Completes (.gait d a b) s d 1) ∧
      (q.empty = false → q.inTeam tm = true → Gives (.gait d a b) s (fun t => Result s t d 0 ∧ OtherStrands s t ∧ SameMemory s t ∧
        ∀ x ∈ rectTiles tm r q, ((getTile s x.1 x.2).gait.asked ≠ some s.clock → (getTile t x.1 x.2).gait.req = bits m 0 2) ∧
          ((getTile s x.1 x.2).gait.asked = some s.clock → getTile t x.1 x.2 = getTile s x.1 x.2)))))

/-- FSCAN, FSIG and the Farrier (R289, R290, R373): FSCAN takes an unheld region out of use and starts at its first pattern; FSIG reads the die's result word; at a boundary a mismatch ends
the run with the region OUT, the last pattern ends it with the region healthy, a pre-emption committed by then aborts it with the field restored, and any other goes on for 2000 clocks more; a
boundary is taken once its clock is over (log 37). In user mode both raise PROTECTION. The vector of its MSI-X (log 54) and HELD for a region that is kept (log 37)
are the model's choice. -/
def Obligations.FarrierScans : Prop :=
  (∀ (s : State), Plain s → ∀ (d a b : Reg),
    let v := (self s).reg a
    let r := bitsN v 0 7
    let f := bitsN v 8 8
    let n := bitsN v 16 8
    let die := regionDie r
    let bad := bit v 7 = true ∨ bitsN v 24 40 ≠ 0 ∨ 99 < f ∨ 100 < f + n
    let word : Word := s.cur.insn.setWidth 64
    ((self s).spr.svm = false → Trappable s → NoLockWaits s →
      Gives (.fscan d a b) s (fun t => Trapped s t 0x05 word) ∧ Gives (.fsig d a) s (fun t => Trapped s t 0x05 word)) ∧
    ((self s).spr.svm = true →
      Completes (.fsig d a) s d (getDie s (regionDie r)).fres ∧
      (bad → Completes (.fscan d a b) s d 3) ∧
      (¬bad → (self s).reg b = 0 →
        (regionHeld s r = true → Completes (.fscan d a b) s d 1) ∧
        (regionHeld s r = false → (getDie s die).farrier.isSome = true → Completes (.fscan d a b) s d 2) ∧
        (regionHeld s r = false → (getDie s die).farrier = none → Gives (.fscan d a b) s (fun t => Result s t d 0 ∧ OtherStrands s t ∧ SameMemory s t ∧
          (getRegion t r).lr = 3 ∧ (getDie t die).fres = farrierWord 1 false r f 0 0 ∧
          (getDie t die).farrier = some { region := BitVec.ofNat 7 r, stop := f + (if n = 0 then 100 - f else n), counter := none
                                          prior := (getRegion s r).lr, due := s.clock + 1999 }))))) ∧
  (∀ (s : State) (die : DieId) (sig : Word32) (f : FRun), s.MemOk → NoLockWaits s → (getDie s die.toNat).farrier = some f →
    let dn := die.toNat
    let r := f.region.toNat
    let p := bitsN (getDie s dn).fres 40 8
    let ends (bad : Bool) (w : Word) (lr : BitVec 2) : Prop := Gives (.farrierPatternBoundary die sig bad) s (fun t =>
      (getDie t dn).farrier = none ∧ (getDie t dn).fres = w ∧ (getRegion t r).lr = lr ∧ t.host.out = s.host.out ++ [.msix 4] ∧
      (f.counter = none → SameMemory s t) ∧
      (∀ key, f.counter = some key → Stored s t key (toBytes (BitVec.ofNat 64 (valueAt s key 8 + 1)) 8)))
    (s.clock ≤ f.due → ∀ bad, Gives (.farrierPatternBoundary die sig bad) s (fun t => t = s)) ∧
    (f.due < s.clock → ends true (farrierWord 2 true r p p sig.toNat) 2 ∧
      (f.stop ≤ p + 1 → ends false (farrierWord 2 false r (p + 1) 0 sig.toNat) 0) ∧
      (p + 1 < f.stop → (∀ c, f.pre = some c → f.due < c) → Gives (.farrierPatternBoundary die sig false) s (fun t =>
        (getDie t dn).farrier = some { f with due := f.due + 2000 } ∧ (getDie t dn).fres = farrierWord 1 false r (p + 1) 0 sig.toNat ∧
        (getRegion t r).lr = (getRegion s r).lr ∧ SameMemory s t)) ∧
      (∀ c, p + 1 < f.stop → f.pre = some c → c ≤ f.due → ends false (farrierWord 3 false r (p + 1) 0 sig.toNat) f.prior)))

/-! ### Tiles: gaits and contexts -/

/-- Switches of a tile (R92, R97, R99, R113, R304): at its end, no firing being in progress, a gait switch leaves the tile in its new gait and a context switch in its new context; a wake slot serves one region of
the die; a released barrier no longer holds a context; SWITCH changes a STABLED tile at once, begins an 8-clock switch of an idle awake tile, and waits for a gait switch. -/
def Obligations.TileSwitches : Prop :=
  ∀ (s : State), s.MemOk → ∀ (r : RegionId) (k : TileId),
    let tile (s : State) : Tile := getTile s r.toNat k.toNat
    let calm (t : State) : Prop := t.strands = s.strands ∧ SameMemory s t
    (∀ g c, (tile s).gait.sw = some (g, c) → c ≤ s.clock → (tile s).fir = none →
      Gives (.gaitSwitchComplete r k) s (fun t => (tile t).gait.cur = g ∧ (tile t).gait.posted = false ∧ (tile t).gait.req = (tile s).gait.req ∧ calm t)) ∧
    (∀ ctx c tag, (tile s).csw = some (ctx, c, tag) → c ≤ s.clock → (tile s).fir = none →
      Gives (.contextSwitchComplete r k) s (fun t => (tile t).active = ctx ∧ (tile t).csw = none ∧ (tile t).ctxs = (tile s).ctxs ∧ calm t)) ∧
    (∀ x c sc e, (tile s).gait.sw = none → (tile s).ctxs.find? x = some c → c.hold = some (sc, e) → e < (getBarrier s r.toNat sc.toNat).epoch →
      Gives (.tileSeesRelease r k) s (fun t => (tile t).ctxs.find? x = some { c with hold := none } ∧ (tile t).gait.cur = (tile s).gait.cur ∧ calm t)) ∧
    (∀ (die : DieId) q, (∀ c, (getDie s die.toNat).wakeAt = some c → c + 2000 ≤ s.clock) →
      ((List.range 4).map (fun j => ((getDie s die.toNat).wakeLast + 1 + j) % 4)).find? (fun q => wantsWake s (dieRegion die.toNat q)) = some q →
      Gives (.wakeSlot die) s (fun t => (getDie t die.toNat).wakeAt = some s.clock ∧ (getDie t die.toNat).wakeLast = q ∧
        wantsWake t (dieRegion die.toNat q) = false ∧ calm t)) ∧
    (∀ (ctx : BitVec 2) (rect : Word),
      let ts := rectTiles (myTeam s) s.cur.reg.toNat (rectOf rect)
      let at' (s : State) (x : Nat × Nat) : Tile := getTile s x.1 x.2
      ((rectOf rect).empty = true ∨ (rectOf rect).inTeam (myTeam s) = true) → ts.Nodup → (∀ x ∈ ts, (at' s x).csw = none ∧ (at' s x).cswDue = none) →
      Gives (.switch ctx rect) s (fun t => calm t ∧
        (∀ x ∈ ts, (at' s x).active = ctx.toNat → at' t x = at' s x) ∧
        (∀ x ∈ ts, (at' s x).active ≠ ctx.toNat → (at' s x).gait.sw = none →
          if (at' s x).gait.cur = 0 then (at' t x).active = ctx.toNat
          else (at' t x).csw = some (ctx.toNat, max s.clock (at' s x).busy + 8, s.cur.num * 128 + s.cur.reg.toNat)) ∧
        ((∀ x ∈ ts, (at' s x).active ≠ ctx.toNat → (at' s x).gait.sw = none ∧ (at' s x).gait.cur = 0) →
          switchesLeft s (s.cur.num * 128 + s.cur.reg.toNat) = false → Retired s t)))

/-! ### Stream commands -/

/-- The commands of a stream port as they begin (R297–R301, R307): BIND and CFGTOK install the pattern read from memory and retire; FEED and DRAIN run on the port; MARK and a LAYOUT
descriptor emit their marker and retire; that MARK's scope counts for BARRIER alone is the model's reading (log 18). A port that no channel reaches is check 18, and a pattern that is missing check 19: CONFIG_INVALID is pending. -/
def Obligations.PortCommands : Prop :=
  ∀ (s : State), s.MemOk → ∀ (p : BitVec 5) (e sc gs rst : Bool) (n : Word32) (at' : Word) (ch : BitVec 2),
    let r := s.cur.reg.toNat
    let q := s.cur.num
    let port (s : State) : Port := getPort s r p.toNat
    let away := outPort s r p.toNat = none ∧ inPort s r p.toNat = none
    let calm (t : State) : Prop := t.strands = s.strands ∧ SameMemory s t
    let fails (i : Instr) (chk : Nat) : Prop := CheckFails i s chk 0
    (bitsN at' 0 6 = 0 →
      (away → fails (.bind p at') 18 ∧ fails (.cfgtok p ch false at') 18) ∧
      (¬away → ∀ bs, Described s at' 64 bs → patternBad bs = none →
        Gives (.bind p at') s (fun t => (port t).pat = some (patternOf bs) ∧ (port t).pos = List.replicate 6 0 ∧ (port t).eos = true ∧ Retired s t ∧ calm t) ∧
        ((port s).eos = true → Gives (.cfgtok p ch false at') s (fun t => (port t).pat = some (patternOf bs) ∧ Retired s t ∧ calm t))) ∧
      (¬away → (port s).eos = false → fails (.cfgtok p ch false at') 19) ∧
      (∀ c bs, outPort s r p.toNat = some c → (port s).eos = true → Described s at' 56 bs →
        bitsN (BitVec.ofNat 64 (ofBytes (bs.take 8))) 4 28 = 0 → bitsN (BitVec.ofNat 64 (ofBytes (bs.take 8))) 0 3 < 6 →
        Gives (.cfgtok p ch true at') s (fun t => Emits s t c 1 [markTok 3 (ch.toNat * 16 + ofBytes bs * 2 ^ 64)] ∧ Retired s t ∧ calm t))) ∧
    (bitsN at' 0 3 = 0 →
      (outPort s r p.toNat = none → fails (.feed p rst sc e n at') 18) ∧
      (inPort s r p.toNat = none → fails (.drain p rst gs n at') 18) ∧
      (inPort s r p.toNat ≠ none → (port s).pat = none → fails (.drain p rst gs n at') 19) ∧
      (∀ c, outPort s r p.toNat = some c → (port s).pat ≠ none → n.toNat % Head.prl (getChan s c).head = 0 → sc = false →
        Gives (.feed p rst false e n at') s (fun t => (port t).run = some { num := q, left := if n = 0 then none else some n.toNat, off := at', e := e } ∧
          (port t).eos = false ∧ (port t).pos = (if rst then List.replicate 6 0 else (port s).pos) ∧ calm t)) ∧
      (inPort s r p.toNat ≠ none → (port s).pat ≠ none →
        Gives (.drain p rst gs n at') s (fun t =>
          (port t).run = some { num := q, drain := true, left := if n = 0 then none else some n.toNat, off := at', gs := gs } ∧
          (port t).eos = false ∧ (port t).pos = (if rst then List.replicate 6 0 else (port s).pos) ∧ calm t))) ∧
    (∀ c (ty : BitVec 4) (scope : BitVec 3), outPort s r p.toNat = some c → (ty = 2 ∧ at' = 0 ∨ ty = 4 ∧ at'.toNat < 65536 ∨ ty = 6) →
      let extra := if ty = 4 then scope.toNat * 16 + at'.toNat * 2 ^ 16 else if ty = 6 then at'.toNat * 2 ^ 64 else 0
      Gives (.mark p ty scope at') s (fun t => Emits s t c 1 [markTok ty.toNat extra] ∧ (ty = 2 → (port t).eos = true) ∧ Retired s t ∧ calm t))

/-- One token of a FEED and of a DRAIN (R299, R300): FEED reads the block at the port's position, emits it with weight 1 and moves on; DRAIN writes the record at the head to the block, takes it
and moves on; the last token retires the command. An END at the head ends a DRAIN. -/
def Obligations.PortTokens : Prop :=
  ∀ (s : State) (r : RegionId) (p : BitVec 5) (j : Running) (tm : Team) (left : Nat) (pc : Piece), s.MemOk → NoLockWaits s →
    let port (s : State) : Port := getPort s r.toNat p.toNat
    let space := tm.spaceAt tm.svm r.toNat
    let va := (port s).block j.off
    let live (t : State) : List Nat := (getRegion t r.toNat).cmds.live
    let moved (t : State) : Prop :=
      (port t).pos = ((port s).advance 1).pos ∧ (left ≠ 0 → (port t).run = some { j with left := some left }) ∧
      (left = 0 → (port t).run = none ∧ j.num ∉ live t)
    (port s).run = some j → j.left = some (left + 1) → (port s).park = none → engineTeam s r.toNat = some tm → bit pc.pte 5 = false →
    (∀ ch, j.drain = false → j.e = false → outPort s r.toNat p.toNat = some ch → tm.leave.closed = false → Head.prl (getChan s ch).head = 1 → (port s).part = [] →
      Reached s space va 64 .read [pc] → badAt s [pc] = none →
      Gives (.feedToken r p) s (fun t => moved t ∧ SameMemory s t ∧
        Emits s t ch 1 [⟨BitVec.ofNat 512 (valueAt s pc.key pc.len), Sb.mk (if j.sc then 1 else 0) true true (port s).lastOfLevel false false false 1⟩])) ∧
    (∀ cb, j.drain = true → inPort s r.toNat p.toNat = some cb → (getBranch s cb.1 cb.2).mayAct s.clock 1 = true →
      let b (s : State) : Branch := getBranch s cb.1 cb.2
      (∀ i k, (b s).seen s.clock = .record i → i.toks = [k] → (port s).place = 0 → Reached s space va 64 .write [pc] → pc.len = 64 →
        Gives (.drainToken r p) s (fun t => moved t ∧ (b t).buf = (b s).buf.tail ∧ Stored s t pc.key (toBytes k.pay 64))) ∧
      (∀ m, (b s).seen s.clock = .mark m → m.mtype = 2 →
        Gives (.drainToken r p) s (fun t => (port t).run = none ∧ (port t).eos = true ∧ j.num ∉ live t ∧ (b t).buf = (b s).buf.tail ∧ SameMemory s t)))

/-- ARM, START and BARRIER (R121, R131, R227, R303, R304): ARM arms a section with its count and retires once it is done, or at once with nothing to wait for; START starts the context on the tiles of
its rectangle; BARRIER ends the region's phases and opens one of its own number in every loaded context. -/
def Obligations.SectionCommands : Prop :=
  ∀ (s : State), s.MemOk → ∀ (ctx : BitVec 2) (sec : BitVec 4) (count : Word32) (rect : Word),
    let r := s.cur.reg.toNat
    let calm (t : State) : Prop := t.strands = s.strands ∧ t.chans = s.chans ∧ SameMemory s t
    let waits := count ≠ 0 ∧ sectActors s r ctx.toNat sec.toNat ≠ []
    Gives (.arm ctx sec count) s (fun t => calm t ∧
      (let x := getSect t r ctx.toNat sec.toNat
       x.armed = true ∧ x.count = count.toNat ∧ x.num = s.cur.num ∧ x.last = s.cur.num ∧ x.done = false ∧ (x.waits = true ↔ waits)) ∧
      (¬waits → Retired s t) ∧ (waits → (getRegion t r).cmds = (getRegion s r).cmds)) ∧
    (let ts := rectTiles (myTeam s) r (rectOf rect)
     ((rectOf rect).empty = true ∨ (rectOf rect).inTeam (myTeam s) = true) →
     Gives (.start ctx rect) s (fun t => calm t ∧ Retired s t ∧
       (∀ x ∈ ts, ∀ c, (getTile s x.1 x.2).ctxs.find? ctx.toNat = some c →
         (getTile t x.1 x.2).ctxs.find? ctx.toNat = some (if c.started then c else { c with started := true, startNum := s.cur.num, startAt := some s.clock })) ∧
     (∀ x ∈ ts, startedAtTile t ctx.toNat x.1 x.2 = true))) ∧
    Gives .barrier s (fun t => calm t ∧ t.tiles = s.tiles ∧ Retired s t ∧
      ∀ x, x < 4 → s.tiles.cells.any (fun k => k.1 / 256 == r && (k.2.ctxs.find? x).isSome) = true →
        ((getRegion t r).phases.getD x []).getLast? = some { seq := s.cur.num, start := s.clock })

/-- The commands of a channel's branch (R135, R143, R152, R306, R308, R309): ACCRST clears its accounting; SHED and COUPLE replace their fields of the branch word, SHED at once unless the spill ring still holds records;
a channel that is not the team's is check 18, and a word that the rules refuse check 13. -/
def Obligations.BranchCommands : Prop :=
  ∀ (s : State), s.MemOk → ∀ (br : BitVec 2) (chid : Chid) (sh : Word) (body : BitVec 41) (c : Chan) (b : Branch),
    let r := s.cur.reg.toNat
    let q := s.cur.num
    let after (t : State) : Branch := getBranch t chid.toNat br.toNat
    let cleared (x : BState) : BState :=
      { x with lost := 0, lenmis := false, stabt := false, spq := false, ovf := false, nseen := false, cseen := false, loss := false }
    let coupled := coupleWord b.word (body.setWidth 64)
    let with' := updBranch s chid.toNat br.toNat (fun b =>
      { b with word := coupled, lastNum := q, st := { b.st with integ := if Br.cen coupled && !Br.cen b.word then 0 else b.st.integ } })
    (s.chans.find? chid.toNat = some c → c.live = true → c.team = (myTeam s).id → c.branches[br.toNat]? = some b →
      (∀ all, Gives (.accrst all br chid) s (fun t => Retired s t ∧ SameMemory s t ∧ t.strands = s.strands ∧
        ∀ k x, c.branches[k]? = some x → getBranch t chid.toNat k =
          (if all = true ∨ k = br.toNat then { x with st := { cleared x.st with cumw := 0 } } else x))) ∧
      (∀ clr ind bs, (ind = false → bitsN sh 31 33 = 0) → (ind = true → bitsN sh 0 5 = 0 ∧ Described s sh 32 bs) →
        let new : BitVec 256 := if ind then BitVec.ofNat 256 (ofBytes bs) else setBits b.word 188 31 (bitsN sh 0 31)
        let word := applyShed b.word new
        let leaves := Br.pol b.word = 1 ∧ Br.pol word ≠ 1 ∧ b.st.spocc ≠ 0
        (branchOk word = true → ¬leaves → Gives (.shed clr ind br chid sh) s (fun t =>
          Retired s t ∧ SameMemory s t ∧ t.strands = s.strands ∧ (after t).word = word ∧ (after t).buf = b.buf ∧
          (after t).st = { (if clr then cleared b.st else b.st) with retest := true, sph := 0 })) ∧
        (branchOk word = true → leaves → b.shedTag = 0 → Gives (.shed clr ind br chid sh) s (fun t =>
          (after t).word = b.word ∧ (after t).shed = some new ∧ (after t).shedTag = q * 128 + r ∧ (getRegion t r).cmds = (getRegion s r).cmds)) ∧
        (branchOk word = false → CheckFails (.shed clr ind br chid sh) s 13 chid.toNat)) ∧
      (branchOk coupled = true → reinsBad (teamCoupled with' c.team) = none →
        Gives (.couple br chid body) s (fun t => Retired s t ∧ SameMemory s t ∧ t.strands = s.strands ∧ (after t).word = coupled ∧ (after t).buf = b.buf)) ∧
      (branchOk coupled = false → CheckFails (.couple br chid body) s 13 chid.toNat)) ∧
    (s.chans.find? chid.toNat = none →
      CheckFails (.accrst false br chid) s 18 0 ∧ CheckFails (.couple br chid body) s 18 0 ∧ (bitsN sh 31 33 = 0 → CheckFails (.shed false false br chid sh) s 18 0))

/-- The commands that install tables (R44, R160, R164, R167, R302, R310, R311, R313, R315): CFG loads an image that passes every check, and names the check that fails;
TMPL, REDTREE and WATCHSET install what their descriptor says; RESUME frees a parked unit of the team. Each retires. The DET
of check 17 for REDTREE (log 34) and of the checks of an image (log 25) is the model's reading of R294. -/
def Obligations.TableCommands : Prop :=
  ∀ (s : State) (tm : Team), s.MemOk → TeamHere s tm →
    let r := s.cur.reg.toNat
    let calm (t : State) : Prop := Retired s t ∧ t.strands = s.strands ∧ t.chans = s.chans ∧ SameMemory s t
    (∀ ctx (id : Word32) rect, let q := rectOf rect
      let area : Rect := if q.empty then ⟨16 * (r % 16 - tm.x), 16 * (r / 16 - tm.y), 16, 16⟩ else q
      (q.empty = false → q.inTeam tm = false → CheckFails (.cfg ctx id rect) s 18 0) ∧
      (q.empty = true ∨ q.inTeam tm = true →
        (cfgImage s tm id = none → CheckFails (.cfg ctx id rect) s 16 id.toNat) ∧
        (∀ i x, cfgImage s tm id = some i → cacheFetch s (regionDie r) i imageReads = some x →
          (∀ d, readImage x.1 = .error d → CheckFails (.cfg ctx id rect) s 15 d) ∧
          (∀ m rec, readImage x.1 = .ok m → checkImage x.2 tm ctx.toNat (some area) m = some rec →
            let w := causeStrand s r s.cur.num
            (getStrand s w).traps.pend.length < 16 → Gives (.cfg ctx id rect) s (fun t => Retired s t ∧ t.tiles = s.tiles ∧ t.chans = s.chans ∧ SameMemory s t ∧
              Pended t w 0x12 s.cur.num ∧ ∃ c, (getStrand t w).traps.pend.getLast? = some c ∧ c.tval = rec)) ∧
          (∀ m, readImage x.1 = .ok m → checkImage x.2 tm ctx.toNat (some area) m = none → NoLockWaits s →
            Gives (.cfg ctx id rect) s (fun t => Retired s t ∧ t.tiles = (installImage x.2 tm ctx.toNat (some area) m).tiles ∧
              t.chans = (installImage x.2 tm ctx.toNat (some area) m).chans))))) ∧
    (∀ (tidx : BitVec 10) taddr bs, bitsN taddr 0 6 = 0 → Described s taddr 128 bs → let ws := bytesWords bs 16
      (tmplBad ws = none → Gives (.tmpl tidx taddr) s (fun t => calm t ∧ (getTeam t tm.id).tmpl.find? tidx.toNat = some ws ∧
        ∀ k, k ≠ tidx.toNat → (getTeam t tm.id).tmpl.find? k = tm.tmpl.find? k)) ∧
      (∀ k, tmplBad ws = some k → CheckFails (.tmpl tidx taddr) s 20 k)) ∧
    (∀ nent tout len (tree : BitVec 6) table bs, let n := nent.toNat + 1
      bitsN table 0 4 = 0 → Described s table (16 * n) bs → let es := tablePairs bs n
      let ns := es.map (fun e => treeEntry e.1 e.2)
      (∀ d, treeBad es = some d → CheckFails (.redtree nent tout len tree table) s 17 d) ∧
      (treeBad es = none → (∃ k ∈ ns, tm.holds k.reg.toNat = false) → CheckFails (.redtree nent tout len tree table) s 18 0) ∧
      (treeBad es = none → (∀ k ∈ ns, tm.holds k.reg.toNat = true) →
        (∀ o, s.trees.find? tree.toNat = some o → o.team = tm.id ∧ ∀ k ∈ o.nodes, k.held = []) →
        Gives (.redtree nent tout len tree table) s (fun t => Retired s t ∧ SameMemory s t ∧
          t.trees.find? tree.toNat = some { team := tm.id, len := len.toNat + 1, tout := tout.toNat, nodes := ns } ∧
          ∀ i, tm.holds (i / 4) = true → (getStrand t i).epochs.find? tree.toNat = none))) ∧
    (∀ (f : BitVec 5) (die : DieId) faddr bs, bitsN faddr 0 4 = 0 → Described s faddr 16 bs →
      Gives (.watchset f die faddr) s (fun t => calm t ∧
        t.trans.watch = s.trans.watch.put (die.toNat * 32 + f.toNat) (setBits (BitVec.ofNat 128 (ofBytes bs)) 0 6 0))) ∧
    (∀ (act : BitVec 2) (id : Word32) (unit : Word), let rr := bitsN unit 32 7
      let u := bitsN unit 16 8
      (bitsN unit 39 12 ≠ tm.atag ∨ tm.holds rr = false ∨ bitsN unit 53 3 = 0 ∨ 4 < bitsN unit 53 3 → CheckFails (.resume act id unit) s 18 0) ∧
      (bitsN unit 39 12 = tm.atag → tm.holds rr = true →
        (bitsN unit 53 3 = 3 → act ≠ 0 → CheckFails (.resume act id unit) s 19 0) ∧
        (bitsN unit 53 3 = 3 → Gives (.resume 0 id unit) s (fun t => calm t ∧ (getPort t rr (u % 32)).park = none)) ∧
        (∀ x, bitsN unit 53 3 = 2 → (getCarter s rr (u % 8)).cur = some x →
          Gives (.resume 0 id unit) s (fun t => calm t ∧ (getCarter t rr (u % 8)).cur = some { x with park := none })) ∧
        (let tile := bitsN unit 24 8
         let ctx := bitsN unit 22 2
         let a := bitsN unit 20 2
         ∀ x, bitsN unit 53 3 = 1 → ((getTile s rr tile).ctxs.getD ctx {}).actors.find? a = some x → x.park ≠ none →
          Gives (.resume 0 id unit) s (fun t => calm t ∧
            ((getTile t rr tile).ctxs.getD ctx {}).actors.find? a = some { x with park := none, trapped := none, owed := false }))))

/-- Pre-emption (R109, R216–R219, R294, R312, R314): CLOSE stops the strands of a SAVING team; QUIESCE starts its limit; quiescence ends QUIESCE; SAVE leaves the team SAVED with its
image; RESTORE leaves it LOADING, and once its tiles have their gaits it is RUNNING and the RESTORE retires. Each is check 19 in another state, and check 21 for bits that must be zero. The limit's
end puts a team that has not drained on the hard path. -/
def Obligations.PreemptionCommands : Prop :=
  ∀ (s : State) (team : TeamId) (v : Team), s.MemOk → TeamAt s team v →
    let id := team.toNat
    let after (t : State) : Team := getTeam t id
    let r := s.cur.reg.toNat
    let space := (myTeam s).spaceAt (myTeam s).svm r
    let zero (i : Word → Instr) (low high : Nat) : Prop :=
      ∀ arg, bitsN arg low (high - low) ≠ 0 → ∃ det, low ≤ det ∧ det < high ∧ bit arg det = true ∧ CheckFails (i arg) s 21 det
    zero (.close team) 0 64 ∧ zero (.quiesce team) 16 64 ∧ zero (.save team) 0 6 ∧ zero (.restore team) 0 6 ∧
    (v.state = .saving →
      Gives (.close team 0) s (fun t => Retired s t ∧ SameMemory s t ∧ (after t).leave.closed = true ∧
        ∀ i ∈ v.strands, v.leave.closed = false → (getStrand s i).run = .ready → (getStrand s i).hold = none → (getStrand s i).sent = [] →
          (getStrand s i).traps.due = none → (getStrand s (i / 4 * 4)).task = none →
          (getStrand t i).run = .ready ∧ (getStrand t i).hold = some .closed ∧ (getStrand t i).pc = (getStrand s i).pc ∧
          (getStrand t i).regs = (getStrand s i).regs) ∧
      (∀ arg, bitsN arg 16 48 = 0 → v.leave.quiet = true → Gives (.quiesce team arg) s (fun t => Retired s t ∧ SameMemory s t ∧ t.teams = s.teams)) ∧
      (∀ arg, bitsN arg 16 48 = 0 → v.leave.quiet = false → Gives (.quiesce team arg) s (fun t =>
        (getRegion t r).cmds = (getRegion s r).cmds ∧ SameMemory s t ∧ (after t).leave.closed = true ∧
        (after t).leave.quiesceNum = some (s.cur.num, r) ∧ (∀ n, v.leave.quiesceNum = some n → n ∈ (after t).leave.quiesceMore) ∧
        (v.leave.thermal = false → v.leave.quiesceNum = none → (after t).leave.began = s.clock ∧
          (after t).leave.limit = (if bitsN arg 0 16 = 0 then s.ost.plimit else bitsN arg 0 16 * 1000)) ∧
        (v.leave.thermal = true → (after t).leave.began = v.leave.began ∧ (after t).leave.limit = v.leave.limit))) ∧
      (∀ area, bitsN area 0 6 = 0 → v.leave.quiet = true → NoLockWaits s → (doSave s id space area).isSome = true →
        Gives (.save team area) s (fun t => Retired s t ∧ (after t).state = .saved ∧ (after t).leave.saved = true ∧ (after t).leave.area = area)) ∧
      (∀ area, bitsN area 0 6 = 0 → v.leave.quiet = false → Gives (.save team area) s (fun t =>
        (getRegion t r).cmds = (getRegion s r).cmds ∧ SameMemory s t ∧ (after t).state = .saving ∧
        (after t).leave.saveDue = v.leave.saveDue ++ [(s.cur.num, r, area, space)])) ∧
      (v.leave.closed = true → v.leave.quiet = false → v.leave.saveDue = [] →
        (quiescent s v = true → ∀ n q, v.leave.quiesceNum = some (n, q) → Gives (.preemptQuiescence team) s (fun t =>
          (after t).leave.quiet = true ∧ (after t).leave.hard = false ∧ (after t).state = .saving ∧ n ∉ (getRegion t q).cmds.live ∧ SameMemory s t)) ∧
        (drained s v true = false → v.leave.hard = false → Gives (.preemptQuiescence team) s (fun t => t.teams = s.teams ∧ SameMemory s t)) ∧
        (v.leave.began + v.leave.limit ≤ s.clock →
          (drained s v true = false → Gives (.preemptLimitExpire team) s (fun t =>
            (after t).leave.hard = true ∧ (after t).leave.quiet = false ∧ (after t).state = .saving ∧ t.strands = s.strands ∧ SameMemory s t)) ∧
          (drained s v true = true → quiescent s v = false → ∀ n q, v.leave.quiesceNum = some (n, q) → Gives (.preemptLimitExpire team) s (fun t =>
            (after t).leave.hard = true ∧ (after t).leave.quiet = true ∧ (after t).state = .saving ∧ n ∉ (getRegion t q).cmds.live ∧ SameMemory s t))))) ∧
    (v.state ≠ .saving → CheckFails (.close team 0) s 19 0 ∧ CheckFails (.quiesce team 0) s 19 0 ∧ CheckFails (.save team 0) s 19 0) ∧
    (∀ area, bitsN area 0 6 = 0 → v.state = .saved → regionsHeldFor s v = true → NoLockWaits s → (doRestore s id space area (some (s.cur.num, r))).isSome = true →
      Gives (.restore team area) s (fun t => (after t).state = .loading ∧ (after t).leave.restoring = true ∧ (after t).leave.restoreNum = some (s.cur.num, r) ∧
        ∀ h ∈ t.ost.holds, h.2.2.2.2 ≠ id)) ∧
    (∀ root sb cb, v.state = .loading → v.leave.restoring = true → v.hitch = none →
      (gaitsSettled s v = true → Gives (.teamLoad team root sb cb) s (fun t => (after t).state = .running ∧ (after t).ranAt = s.clock ∧ SameMemory s t ∧
        t.strands = s.strands ∧ ∀ n q, v.leave.restoreNum = some (n, q) → n ∉ (getRegion t q).cmds.live)) ∧
      (gaitsSettled s v = false → Gives (.teamLoad team root sb cb) s (fun t => t.teams = s.teams ∧ t.regions = s.regions ∧ SameMemory s t))) ∧
    (v.state ≠ .saved ∨ regionsHeldFor s v = false → CheckFails (.restore team 0) s 19 0)

/-! ### Teams -/

/-- How a team ends (R69, R204, R222, R223): KILL leaves it KILLED at once, its strands IDLE and the firmware told, and is refused for a team that is not there or is final; once nothing of it is in
flight its regions are freed and KILLED is posted; 100 ms after a KILL that has not drained KILLSTUCK is posted and its tag withheld. Retirement adds 1 to CDONE. The vectors of these answers are the model's choice (log 54). -/
def Obligations.TeamEnds : Prop :=
  (∀ (s : State) (team : TeamId), s.MemOk → s.teams.find? team.toNat = none →
    Gives (.kill team) s (fun t => t = { s with host := t.host } ∧ Says s t [.refuse "KILL" "NO_TEAM", .msix 0])) ∧
  (∀ (s : State) (team : TeamId) (v : Team), s.MemOk → TeamAt s team v →
    let after (t : State) : Team := getTeam t team.toNat
    let killed := [Out.event "KILL" [BitVec.ofNat 64 v.id], .reply "KILL" [], .msix 0]
    (v.state = .retired ∨ v.state = .killed → Gives (.kill team) s (fun t => t = { s with host := t.host } ∧ Says s t [.refuse "KILL" "FINAL", .msix 0])) ∧
    (v.state = .loading ∨ v.state = .running ∨ v.state = .saving ∨ v.state = .retiring → Gives (.kill team) s (fun t =>
      (after t).state = .killed ∧ (after t).leave.killAt = s.clock ∧ Says s t killed ∧ SameMemory s t ∧
      ∀ i, i / 4 ∈ v.regions → (getStrand t i).run = .idle)) ∧
    (v.state = .depwait ∨ v.state = .queued ∨ v.state = .saved → Gives (.kill team) s (fun t =>
      (after t).state = .killed ∧ (after t).leave.killAt = s.clock ∧ Says s t killed ∧ SameMemory s t ∧ t.strands = s.strands ∧
      ∀ l ∈ t.ost.queues.vals, v.id ∉ l)) ∧
    (v.state = .killed → v.leave.rstep ≠ 6 →
      (killDrained s v = true → NoLockWaits s → Gives (.killComplete team) s (fun t =>
        (after t).state = .killed ∧ (after t).leave.rstep = 6 ∧ (after t).w = 0 ∧ Says s t [.event "KILLED" [BitVec.ofNat 64 v.id]] ∧
        (v.atag ∉ s.ost.withheld → v.atag ∉ t.ost.usedTags))) ∧
      (killDrained s v = false → v.leave.stuck = false → v.leave.killAt + 100000000 ≤ s.clock → Gives (.killstuck team) s (fun t =>
        (after t).leave.stuck = true ∧ Says s t [.event "KILLSTUCK" [BitVec.ofNat 64 v.atag]] ∧ SameMemory s t ∧ t.strands = s.strands ∧
        (v.atag ≠ 0 → v.atag ∈ t.ost.withheld)))) ∧
    (v.state = .retiring → landed s v = true → s.tiles.cells.any (fun c => v.regions.contains (c.1 / 256) && c.2.fir.isSome) = false → NoLockWaits s → Gives (.retireComplete team) s (fun t =>
      (after t).state = .retired ∧ (after t).w = 0 ∧ v.atag ∉ t.ost.usedTags ∧
      ∀ q, s.part = [] → (∀ i ∈ v.strands, (getStrand s i).view.stores = []) → v.cdone ≠ 0 → wordKey s (v.space v.svm) v.cdone = some q →
        Stored s t q.1 (toBytes (BitVec.ofNat 64 (valueAt s q.1 8 + 1)) 8))))

/-- The Ostler's work for one team (R28, R44, R47, R59, R62, R63, R67): a selection with one QUEUED team, nothing else waiting or kept, takes the rectangle that R63 chooses and the team is LOADING
with the lowest free tag; a load fills it in; once every tile has its gait START goes to all of them and the team is RUNNING, but a hitch member says that it is ready; an image that fails its checks as it is loaded ends the team; an image that no cache holds is fetched and, when it reads, kept. -/
def Obligations.OstlerWork : Prop :=
  (∀ (s : State) (v : Team) (rect : RRect), s.MemOk → s.teams.cells = [(v.id, v)] → v.state = .queued → v.hitch = none → v.w * v.h ≤ 16 →
    s.host.ports.cells = [] → s.ost.holds = [] → s.ost.queues.cells = [(v.port, [v.id])] → s.sec.lcs ≠ .retired → tagReady s v = true →
    choosePlace s v = some rect →
    Gives .ostlerSelection s (fun t => (getTeam t v.id).state = .loading ∧ (getTeam t v.id).x = rect.1 ∧ (getTeam t v.id).y = rect.2.1 ∧
      (getTeam t v.id).atag = (if v.svm then 0 else (freeTag s).getD 0) ∧ t.ost.queues.getD v.port [] = [] ∧ t.strands = s.strands ∧ SameMemory s t)) ∧
  (∀ (s : State) (team : TeamId) (v : Team) (root sb cb : Word), s.MemOk → TeamAt s team v → v.state = .loading → v.leave.restoring = false →
    s.sec.lcs ≠ .retired →
    let after (t : State) : Team := getTeam t team.toNat
    let load := Instr.teamLoad team root sb cb
    (∀ s', v.imageReady = false → root.toNat % 65536 = 0 → root.toNat < 2 ^ 41 → sb.toNat % 2 ^ 45 = 0 → cb.toNat % 4096 = 0 → NoLockWaits s →
      loadTeam s team.toNat root sb cb = .done s' → Gives load s (fun t => (after t).state = .loading ∧ (after t).imageReady = true ∧ (after t).root = root ∧
        (after t).slicebase = sb ∧ (after t).cartbase = cb ∧ t.tiles = s'.tiles ∧ t.chans = s'.chans)) ∧
    (∀ why w, v.imageReady = false → root.toNat % 65536 = 0 → root.toNat < 2 ^ 41 → sb.toNat % 2 ^ 45 = 0 → cb.toNat % 4096 = 0 →
      loadTeam s team.toNat root sb cb = .refused why w → Gives load s (fun t => (after t).state = .killed ∧ SameMemory s t)) ∧
    (v.imageReady = true → gaitsSettled s v = false → Gives load s (fun t => t.teams = s.teams ∧ t.tiles = s.tiles ∧ SameMemory s t)) ∧
    (v.imageReady = true → gaitsSettled s v = true →
      (v.hitch = none → Gives load s (fun t => (after t).state = .running ∧ (after t).ranAt = s.clock ∧ t.strands = s.strands ∧ SameMemory s t ∧
        ∀ r ∈ v.regions, ∀ k, k < 256 → startedAtTile t 0 r k = true)) ∧
      (∀ h x, v.hitch = some h → s.ost.hitches.find? h = some x → x.said = false → Gives load s (fun t => t.teams = s.teams ∧ t.tiles = s.tiles ∧
        t.ost.hitches.find? h = some { x with said := true, ready := modN s :: x.ready } ∧
        Says s t ((x.members.filter (fun m => m != modN s)).map (fun m => .event "READY" [BitVec.ofNat 64 h, BitVec.ofNat 64 m, BitVec.ofNat 64 (modN s)])))))) ∧
  (∀ (s : State) (die : DieId) (id : Word32) (i : Image), s.MemOk →
    (∀ t ∈ s.teams.vals, t.state ≠ .loading) → s.ost.images.find? id.toNat = some i →
    let cache (s : State) : List (Nat × List Byte) := s.ost.caches.getD die.toNat []
    (cache s).length < 64 → (cache s).find? (fun e => e.1 == i.serial) = none →
    let bs := (List.range i.len).map (fun k => memRead s.mem (hbmKey (modN s) i.addr + k))
    (imageReads bs = true → Gives (.imageFetch die id) s (fun t => cache t = (i.serial, bs) :: cache s ∧ t.strands = s.strands ∧ SameMemory s t)) ∧
    (imageReads bs = false → Gives (.imageFetch die id) s (fun t => cache t = cache s ∧ t.strands = s.strands ∧ SameMemory s t)))

/-- Hitches (R74): HITCHSET records 2 to 64 members and a lead of 100 to 10,000 µs, or is refused; a member takes GATE's T; READY and LATE are recorded; at T − 25 µs a member that has not spoken
says which it is; at T, with every member READY and none late, it starts, and otherwise the gate is off and GANG_LATE is posted. A member's ABANDON ends the gate, and its pre-emption saves this one. The messages
of a gate (log 38) and the vectors of its answers (log 54) are the model's choice. -/
def Obligations.Hitches : Prop :=
  ∀ (s : State) (hid : Half), s.MemOk →
    let h := hid.toNat
    let find (t : State) : Option Hitch := t.ost.hitches.find? h
    let calm (t : State) : Prop := t.strands = s.strands ∧ SameMemory s t
    (∀ (ms : List ModId) (lead : Half), let ids := (ms.map BitVec.toNat).eraseDups
      let l := if lead = 0 then 500 else lead.toNat
      let good := 2 ≤ ids.length ∧ ids.length ≤ 64 ∧ 100 ≤ l ∧ l ≤ 10000
      (good → Gives (.hitchset hid ms lead) s (fun t => find t = some { members := ids, lead := l } ∧ Says s t [.reply "HITCHSET" [], .msix 0] ∧ calm t)) ∧
      (¬good → Gives (.hitchset hid ms lead) s (fun t => t = { s with host := t.host } ∧ Says s t [.refuse "HITCHSET" "RESERVED", .msix 0]))) ∧
    (∀ x, find s = some x →
      (∀ T : Word, isCoordinator s h = false → x.startedAt = false → memberOf s h = none →
        Gives (.hitchGate hid T) s (fun t => find t = some { members := x.members, lead := x.lead, t := some T.toNat, ready := x.ready } ∧ calm t)) ∧
      (∀ (src named : ModId), src.toNat ∈ x.members →
        Gives (.hitchReady hid src 0 named) s (fun t => find t = some { x with ready := src.toNat :: x.ready } ∧ calm t) ∧
        Gives (.hitchReady hid src 1 named) s (fun t => find t = some { x with late := src.toNat :: x.late } ∧ calm t) ∧
        (x.t.isSome = true → x.team = none → x.displaced = [] → Gives (.hitchReady hid src 2 named) s (fun t =>
          find t = some { members := x.members, lead := x.lead } ∧ calm t ∧ Says s t [.event "GANG_LATE" [BitVec.ofNat 64 named.toNat]]))) ∧
      (∀ T, x.t = some T → x.startedAt = false →
        (x.said = false → T ≤ wallNow s + 25000 →
          let tells (msg : String) : List Out := (x.members.filter (fun m => m != modN s)).map (fun m => .event msg [BitVec.ofNat 64 h, BitVec.ofNat 64 m, BitVec.ofNat 64 (modN s)])
          (memberReady s x = true → Gives (.hitchLateCheck hid) s (fun t =>
            find t = some { x with said := true, ready := modN s :: x.ready } ∧ Says s t (tells "READY") ∧ calm t)) ∧
          (memberReady s x = false → Gives (.hitchLateCheck hid) s (fun t =>
            find t = some { x with said := true, late := modN s :: x.late } ∧ Says s t (tells "LATE") ∧ calm t))) ∧
        (T ≤ wallNow s → s.sec.lcs ≠ .retired →
          (∀ id v, x.late = [] → memberReady s x = true → (∀ m ∈ x.members, m ≠ modN s → m ∈ x.ready) → x.team = some id → s.teams.find? id = some v → v.id = id → v.state = .loading →
            Gives (.hitchStart hid) s (fun t => find t = some { x with startedAt := true } ∧ (getTeam t id).state = .running ∧ (getTeam t id).ranAt = s.clock ∧ calm t)) ∧
          (∀ m l, x.late = l ++ [m] → x.team = none → x.displaced = [] →
            Gives (.hitchStart hid) s (fun t => find t = some { members := x.members, lead := x.lead } ∧ calm t ∧
              t.host.out.getLast? = some (.event "GANG_LATE" [BitVec.ofNat 64 m])))))) ∧
    (∀ v x, s.teams.vals.find? (fun t => t.hitch == some h && t.state == .running) = some v → s.teams.find? v.id = some v → find s = some x → savedCount s < 256 →
      Gives (.hitchPreemption hid) s (fun t => (getTeam t v.id).state = .saving ∧ (getTeam t v.id).leave.closed = true ∧
        (getTeam t v.id).leave.limit = s.ost.plimit ∧ (getTeam t v.id).leave.began = s.clock ∧ find t = some { members := x.members, lead := x.lead } ∧
        Says s t [.event "PREEMPT" [BitVec.ofNat 64 v.id]] ∧ SameMemory s t))

/-! ### Carters and table walks -/

/-- A Carter's copy (R25, R156, R166, R167, R169, R170): it begins with its template; a line of it moves the bytes of its elements, converted, and goes on, or leaves in a packet for another module; a closed team's copy is suspended at a multiple
of 4 KiB; a fault parks a suspendable copy and ends another one with CARTER_FAULT; when every line is in, CADD is added to CADDR, here or over the fabric, and the number retires. What makes one line of a copy (log 33)
and that bits [127:64] of the address beat count the bytes that are not the line's own (log 21) are the model's choice. -/
def Obligations.CarterCopies : Prop :=
  ∀ (s : State) (r : RegionId) (c : BitVec 3) (tm : Team), s.MemOk → NoLockWaits s → s.part = [] → engineTeam s r.toNat = some tm →
    let chan (t : State) : Carter := getCarter t r.toNat c.toNat
    let k := chan s
    (∀ q rest, k.cur = none → k.queue = q :: rest → tm.leave.closed = false →
      Gives (.carterCopyBegin r c) s (fun t => (chan t).queue = rest ∧ SameMemory s t ∧ t.strands = s.strands ∧
        (chan t).cur = some { start := q, tmpl := tm.tmpl.getD (bitsN q.word 0 16) [], gen := (k.gen + 1) % 65536 })) ∧
    (∀ x, k.cur = some x → x.park = none →
      let sp := tm.spaceAt tm.svm r.toNat
      let off := x.start.word >>> 16
      let dsz := Tp.size (Tp.dfmt x.tmpl)
      let e := x.issued / dsz
      let n := lineElems x.tmpl off e (Tp.total x.tmpl 3) 0 0 64
      let vas (cw : Nat) : List Word := (List.range n).map (fun j => Tp.addr x.tmpl cw off (e + j))
      let u1 := (vas 2).foldl (fun s va => enginePrep s sp va (Tp.size (Tp.sfmt x.tmpl)) .read) s
      let u := (vas 3).foldl (fun s va => enginePrep s sp va dsz .write) u1
      let runs := mustSuspend tm x = false ∧ (∀ va ∈ vas 2, engineBlocked s sp va (Tp.size (Tp.sfmt x.tmpl)) .read = false) ∧
        ∀ va ∈ vas 3, engineBlocked u1 sp va dsz .write = false
      (x.issued < Tp.bytes x.tmpl →
        (mustSuspend tm x = true → x.flying = [] →
          Gives (.carterLine r c) s (fun t => (chan t).cur = some { x with susp := true } ∧ SameMemory s t)) ∧
        (runs → ∀ src dst, elemPieces u sp x.tmpl 2 off e .read n = .ok src → badAt s src = none →
          elemPieces u sp x.tmpl 3 off e .write n = .ok dst → Unwatched (src ++ dst) →
          let y := convertElems x.tmpl k.lfsr (readPieces s src) n
          let key := (dst.map (·.key)).headD 0
          ((∀ p ∈ dst, p.key / 2 ^ 48 = modN s) → Gives (.carterLine r c) s (fun t => WritesPieces s t dst y.1 ∧ (chan t).lfsr = y.2 ∧
            (chan t).cur = some { x with issued := x.issued + n * dsz, susp := false })) ∧
          (dst ≠ [] → (∀ p ∈ dst, p.key / 2 ^ 48 ≠ modN s) → Gives (.carterLine r c) s (fun t => (chan t).lfsr = y.2 ∧
            (chan t).cur = some { x with issued := x.issued + n * dsz, flying := x.flying ++ [x.issued], susp := false } ∧
            (Tp.lossy x.tmpl = true → SameMemory s t) ∧ ∃ hdr,
            t.fab.inbound = s.fab.inbound ++ [{ hdr := hdr, addr := BitVec.ofNat 512 (awayAddr key + (64 - n * dsz) * 2 ^ 64)
                                                pay := [BitVec.ofNat 512 (ofBytes y.1)], here := regionDie r.toNat }] ∧
            bitsN hdr 115 13 = key / 2 ^ 48 % 8192 ∧ bitsN hdr 69 3 = (if Tp.lossy x.tmpl then 4 else 1)))) ∧
        (runs → ∀ f, elemPieces u sp x.tmpl 2 off e .read n = .error f →
          (Tp.suspendable x.tmpl = true → Gives (.carterLine r c) s (fun t => SameMemory s t ∧
            (chan t).cur = some { x with park := some { va := f.va, cause := f.code, kind := 0, num := x.start.num, mal := f.mal, lvl := f.lvl } })) ∧
          (let i := r.toNat * 4 + x.start.strand.toNat
           Tp.suspendable x.tmpl = false → (getStrand s i).traps.pend.length < 16 → Gives (.carterLine r c) s (fun t =>
            SameMemory s t ∧ (chan t).cur = none ∧ Pended t i 0x16 x.start.num ∧ x.start.num ∉ (getRegion t r.toNat).cmds.live)))) ∧
      (x.flying = [] → x.adding = false → x.denied = false → Tp.bytes x.tmpl ≤ x.issued →
        let caddr := Tp.word x.tmpl 8
        let ended (t : State) : Prop := (chan t).cur = none ∧ x.start.num ∉ (getRegion t r.toNat).cmds.live
        (caddr = 0 → Gives (.carterComplete r c) s (fun t => ended t ∧ SameMemory s t)) ∧
        (∀ p, caddr ≠ 0 → caddr.toNat % 8 = 0 → Reached s sp caddr 8 .atomic [p] →
          (p.key / 2 ^ 48 = modN s → badAt s [p] = none → bit p.pte 5 = false → Gives (.carterComplete r c) s (fun t => ended t ∧
            Stored s t p.key (toBytes (BitVec.ofNat 64 (valueAt s p.key 8) + Tp.word x.tmpl 9) 8))) ∧
          (p.key / 2 ^ 48 ≠ modN s → Gives (.carterComplete r c) s (fun t => (chan t).cur = some { x with adding := true } ∧ SameMemory s t ∧
            t.fab.inbound.length = s.fab.inbound.length + 1)))))

/-- Walks and invalidation (R155, R160, R161, R212): a walk in flight that finds a leaf fills the shared TLB of its die and the micro-TLBs of the regions that wait for it, one that ends in a fault tells the strands of its die that wait for it; TLBINV waits for the
walks in flight, and then no entry maps its range and blocked deliveries are tried again. The vector of TLBINV's
answer (log 54) and how a walk's end reaches the strands (log 43) are the model's choice. -/
def Obligations.WalksAndInvalidation : Prop :=
  ∀ (s : State), s.MemOk →
    (∀ (tag : Atag) (va : Word) (w : Walk), s.trans.walks.find? (fun w => w.tag == tag.toNat && w.page == va.toNat / 65536 && walking s w) = some w →
      let awaits (i : Nat) : Prop := (getStrand s i).hold = some (.walk tag w.page) ∧ regionDie (i / 4) = w.die
      (∀ tm leaf lvl, teamOfTag s tag.toNat = some tm → walkTable s tm.root (w.page * 65536) = .ok (leaf, lvl) →
        let e : Tlb := { tag := tag.toNat, page := w.page * 65536 / 2 ^ shiftOf lvl, lvl := lvl, leaf := leaf }
        Gives (.pageWalkComplete tag va) s (fun t => w ∉ t.trans.walks ∧ t.strands = s.strands ∧ SameMemory s t ∧
          t.trans.tlb.getD w.die [] = tlbPut (s.trans.tlb.getD w.die []) e 8192 ∧ ∀ i, awaits i → e ∈ t.trans.micro.getD (i / 4) [])) ∧
      (teamOfTag s tag.toNat = none ∨ (∃ tm e, teamOfTag s tag.toNat = some tm ∧ walkTable s tm.root (w.page * 65536) = .error e) →
        Gives (.pageWalkComplete tag va) s (fun t => w ∉ t.trans.walks ∧ t.trans.tlb = s.trans.tlb ∧ t.trans.micro = s.trans.micro ∧ SameMemory s t ∧
          ∀ i, awaits i → (getStrand t i).walkBad = some w.page))) ∧
    (∀ (tag : Atag) (lo hi : Word), Gives (.tlbinv tag lo hi) s (fun t => t.strands = s.strands ∧ SameMemory s t ∧ t.trans.tlb = s.trans.tlb ∧
      t.trans.inval = s.trans.inval ++ [(tag.toNat, lo.toNat, hi.toNat, s.trans.walks.filter (walking s))])) ∧
    (∀ tag lo hi ws rest, s.trans.inval = (tag, lo, hi, ws) :: rest →
      (ws ≠ [] → Gives .tlbinvComplete s (fun t => t = s)) ∧
      (ws = [] → Gives .tlbinvComplete s (fun t => t.trans.inval = rest ∧ SameMemory s t ∧
        (∀ d e, e ∈ t.trans.tlb.getD d [] ↔ e ∈ s.trans.tlb.getD d [] ∧ e.covers tag lo hi = false) ∧
        (∀ r e, e ∈ t.trans.micro.getD r [] ↔ e ∈ s.trans.micro.getD r [] ∧ e.covers tag lo hi = false) ∧
        Says s t [.reply "TLBINV" [], .msix 0] ∧ ∀ i, (getStrand t i).traps.blocked = false ∧ (getStrand t i).regs = (getStrand s i).regs)))

/-! ### The fabric -/

/-- Packets that land (R18, R20, R22, R24–R28, R157, R158, R177): in SEQ order a message is counted by its port, or as REJECTED by a port that does not take it; the lines of a copy are written at their home;
an atomic, a load or a store of another module is performed at its home and answered; what has no such home, or is refused by it, is logged and answered as lost. Each leaves the list of packets under way and is acknowledged. The operation and size codes of C3,
the comparand's place, the bits of the address beat and the packet addresses are the model's choice (log 21). -/
def Obligations.PacketsLand : Prop :=
  ∀ (s : State) (k : Half) (p : Packet), s.MemOk → NoLockWaits s →
    let left (t : State) : Prop := t.fab.inbound = s.fab.inbound.eraseIdx k.toNat
    let acks (tokens : Nat) (lost : Bool) : Out :=
      .ack (Hp.atag p) (Hp.cls p) (Hp.src p) (s.fab.spent.getD (Hp.smod p * 4096 + Hp.atag p) 0 + tokens) lost
    let remote := Hp.smod p ≠ modN s
    let lines := (p.pay.flatMap (fun l => toBytes l 64)).take (64 * p.pay.length - bitsN p.addr 64 64)
    let cost := if packetAddr p < 2 ^ 41 then 2 * p.pay.length else p.pay.length
    let refused (i : Instr) : Prop := Gives i s (fun t => left t ∧ SameMemory s t ∧ t.fab.errlog = sat64 (s.fab.errlog + 1) ∧ Says s t [acks 0 true])
    let copies (i : Instr) : Prop :=
      (∀ key, packetKey s (packetAddr p) = some key → homeAllows s p = true → Gives i s (fun t => left t ∧ Stored s t key lines ∧ (remote → Says s t [acks cost false]))) ∧
      (remote → p.pay ≠ [] → packetKey s (packetAddr p) = none ∨ homeAllows s p = false → refused i)
    (Here s k.toNat p 0 →
      let port := Hp.ddie p * 2048 + Hp.tgt p % 2048
      let ip := getIPort s port
      let takes := if Hp.smod p = modN s then Pd.loc ip.desc else Pd.remote ip.desc
      (inSeq s p = false → Gives (.c0Arrival k) s (fun t => t = s)) ∧
      (inSeq s p = true → takes = false ∨ Pd.mode ip.desc = 0 ∨ Pd.mode ip.desc = 1 → Gives (.c0Arrival k) s (fun t => left t ∧ SameMemory s t ∧
        (getIPort t port).rejected = sat64 (ip.rejected + 1) ∧ t.fab.rseqs.getD (Hp.stream p) 0 = (Hp.seq p + 1) % 65536 ∧
        (remote → Says s t [acks 0 false]) ∧ (¬remote → (getStrand t (Hp.src p)).c0 = (getStrand s (Hp.src p)).c0 - 1))) ∧
      (inSeq s p = true → takes = true → Pd.mode ip.desc = 3 → Gives (.c0Arrival k) s (fun t => left t ∧
        Pd.arrived (getIPort t port).desc = (Pd.arrived ip.desc + 1) % 2 ^ 48 ∧ (getIPort t port).rejected = ip.rejected))) ∧
    (Here s k.toNat p 1 → copies (.c1PacketLand k)) ∧
    (Here s k.toNat p 3 → remote →
      let op := Hp.op p
      let n := sizeOfCode (Hp.size p)
      let w := (p.pay.headD 0).toNat
      let v := w % 2 ^ (8 * n)
      (inSeq s p = false → Gives (.c3AtomicPerform k) s (fun t => t = s)) ∧
      (inSeq s p = true → c3Good p = false ∨ packetKey s (packetAddr p) = none ∨ homeAllows s p = false → refused (.c3AtomicPerform k)) ∧
      (∀ key, inSeq s p = true → c3Good p = true → packetKey s (packetAddr p) = some key → homeAllows s p = true →
        let old := valueAt s key n
        let answers (P : State → Prop) : Prop := Gives (.c3AtomicPerform k) s (fun t => left t ∧ P t ∧ t.fab.rseqs.getD (Hp.stream p) 0 = (Hp.seq p + 1) % 65536 ∧
          Says s t [.data ((List.range n).map (fun j => some (memRead s.mem (key + j)))), acks 0 false])
        (op ≤ 8 → answers (fun t => Stored s t key (toBytes (BitVec.ofNat 64 (aopNew (8 * n) op old v)) n))) ∧
        (op = 9 → answers (fun t => if old = w / 2 ^ 64 % 2 ^ 64 % 2 ^ (8 * n) then Stored s t key (toBytes (BitVec.ofNat 64 v) n) else SameMemory s t)) ∧
        (op = 10 → answers (fun t => SameMemory s t)) ∧
        (op = 11 → Gives (.c3AtomicPerform k) s (fun t => left t ∧ Stored s t key (toBytes (BitVec.ofNat 64 v) n) ∧ Says s t [acks 0 false])))) ∧
    (Here s k.toNat p 4 →
      (Hp.carter p = true → copies (.c4PacketLand k)) ∧
      (Hp.carter p = false → (∀ q ∈ s.fab.inbound.take k.toNat, ¬(Hp.cls q = 4 ∧ Hp.carter q = false ∧ Hp.dmod q = modN s ∧ Hp.tgt q = Hp.tgt p)) →
        (remote → s.chans.find? (Hp.tgt p) = none ∨ (∃ c, s.chans.find? (Hp.tgt p) = some c ∧ c.live = false) → refused (.c4PacketLand k)) ∧
        (∀ c b, s.chans.find? (Hp.tgt p) = some c → c.live = true → c.branches[0]? = some b →
          (b.mayAct s.clock 3 = false → Gives (.c4PacketLand k) s (fun t => t = s)) ∧
          (b.mayAct s.clock 3 = true → remote → bitsN p.addr 0 48 < b.expSeq → refused (.c4PacketLand k)) ∧
          (b.mayAct s.clock 3 = true → b.expSeq = bitsN p.addr 0 48 → b.expCumw = bitsN p.addr 64 64 → p.pay = [] →
            Gives (.c4PacketLand k) s (fun t => left t ∧ SameMemory s t ∧ (remote → Says s t [acks 0 false] ∧
              getBranch t (Hp.tgt p) 0 = { b with stage := max b.stage (s.clock * 5 + 3) } ∧ ∀ m, m ≠ Hp.tgt p → getChan t m = getChan s m))))))

/-- Forwarding and acknowledgements (R9, R11, R15–R17, R20, R28, R168): a packet for this module moves one die on, along x and then along y; one for another is given the link that R17 picks, moves to its die and joins its queue; a bad one, one without a
route and one without hops are logged and discarded. An acknowledgement bills its tokens and gives back the place of its packet, line or request; which one its `what` names is the model's layout (log 21). -/
def Obligations.PacketsForwarded : Prop :=
  (∀ (s : State) (k : Half) (p : Packet), s.MemOk → s.fab.written = true → s.fab.inbound[k.toNat]? = some p →
    let e := s.fab.routes.getD (Hp.dmod p) {}
    let gone (t : State) : Prop := t.fab.inbound = s.fab.inbound.eraseIdx k.toNat ∧ t.strands = s.strands ∧ SameMemory s t
    let becomes (q : Packet) : Prop := Gives (.packetForward k) s (fun t => t.fab.inbound = s.fab.inbound.set k.toNat q ∧ t.fab.errlog = s.fab.errlog ∧ SameMemory s t)
    let logged := Gives (.packetForward k) s (fun t => gone t ∧ t.fab.errlog = sat64 (s.fab.errlog + 1))
    let step (dst : Nat) : Nat :=
      if p.here % 8 < dst % 8 then p.here + 1 else if dst % 8 < p.here % 8 then p.here - 1 else if p.here / 8 < dst / 8 then p.here + 8 else p.here - 8
    let crosses (dst : Nat) : Prop := p.here < 32 → dst < 32 → edgeQueue s p.here (step dst) = [p] → becomes { p with here := step dst, left := true }
    (p.bad = true → logged) ∧
    (p.bad = false → Hp.dmod p = modN s → p.here ≠ Hp.ddie p → crosses (Hp.ddie p)) ∧
    (p.bad = false → Hp.dmod p ≠ modN s → e.valid = false ∨ Hp.hops p = 0 → logged) ∧
    (p.bad = false → Hp.dmod p ≠ modN s → e.valid = true → Hp.hops p ≠ 0 →
      (∀ n, p.link = none → pickLink s p e = some n → becomes { p with link := some n }) ∧
      (∀ n : BitVec 4, p.link = some n.toNat →
        let die := if n.toNat < 8 then n.toNat else 24 + (n.toNat - 8)
        ((getLink s n.toNat).carries = false → becomes { p with link := none }) ∧
        ((getLink s n.toNat).carries = true → p.here ≠ die → crosses die) ∧
        ((getLink s n.toNat).carries = true → p.here = die → Hp.cls p ≠ 4 →
          (∀ q ∈ s.fab.inbound.take k.toNat, ¬(q.here = p.here ∧ Hp.cls q = Hp.cls p ∧ Hp.dmod q = Hp.dmod p)) →
          Gives (.packetForward k) s (fun t => gone t ∧ (getLink t n.toNat).txq = (getLink s n.toNat).txq ++ [p] ∧
            (∀ m, m ≠ n.toNat → getLink t m = getLink s m) ∧ t.fab.errlog = s.fab.errlog))))) ∧
  (∀ (s : State) (tag : Atag) (cls : BitVec 3) (src : BitVec 9) (tokens : Word) (what : Half) (lost : Bool) (tm : Team), s.MemOk →
    tagTeam s tag.toNat = some tm → s.teams.find? tm.id = some tm →
    let r := src.toNat / 4
    let i := src.toNat
    let n := bitsN what 0 15
    let billed (t : State) : Prop := (getTeam t tm.id).energy.spent = sat64 (tm.energy.spent + tokens.toNat) ∧
      (getTeam t tm.id).energy.remain = tm.energy.remain - tokens.toNat ∧ SameMemory s t
    (cls = 0 → Gives (.ackReceive tag cls src (tokens, what, lost)) s (fun t => billed t ∧ (getTeam t tm.id).flying = tm.flying ∧
      (getStrand t i).c0 = (getStrand s i).c0 - 1 ∧ ∀ j, j ≠ i → getStrand t j = getStrand s j)) ∧
    ((cls = 1 ∨ cls = 4) → bit what 15 = false → ∀ x, (getCarter s r (n % 8)).cur = some x →
      Gives (.ackReceive tag cls src (tokens, what, lost)) s (fun t => billed t ∧ (getTeam t tm.id).flying = tm.flying - 1 ∧ t.strands = s.strands ∧
        let k := getCarter s r (n % 8)
        let k' := getCarter t r (n % 8)
        let m := n / 8 - k.old.length
        k'.lost = sat64 (k.lost + if cls = 4 ∧ lost = true then 1 else 0) ∧
        (n / 8 < k.old.length → k'.old = k.old.eraseIdx (n / 8) ∧ k'.cur = some x) ∧
        (k.old.length ≤ n / 8 → k'.old = k.old ∧ k'.cur = some { x with
          flying := x.flying.eraseIdx m, refused := x.refused ++ if cls = 1 ∧ lost = true then (x.flying[m]?).toList else [] }))) ∧
    (cls = 3 → ∀ q, ((getStrand s i).sent.filter (fun q => !q.answered))[n]? = some q → q.gone = false →
      Gives (.ackReceive tag cls src (tokens, what, lost)) s (fun t => billed t ∧ (getTeam t tm.id).flying = tm.flying - 1 ∧
        { q with answered := true, denied := lost } ∈ (getStrand t i).sent ∧ ∀ j, j ≠ i → getStrand t j = getStrand s j)))

/-- Links and their registers (R11, R13–R16): flits in order bring a packet in at the link's die and are acknowledged, a CRC failure counts and asks for a replay; a lost lane leaves a link DEGRADED, or down; training brings an enabled link UP or
DEGRADED; EN leaves a link DOWN until it trains; the counters, the module id and the routes are as written. R15 whole: no EN bit is set, no flits are accepted and none are sent before the id is written, and the id is not
changed while a link is enabled. -/
def Obligations.LinksAndRoutes : Prop :=
  ∀ (s : State) (n : BitVec 4), s.MemOk →
    let l := getLink s n.toNat
    let link (t : State) : Link := getLink t n.toNat
    let calm (t : State) : Prop := t.strands = s.strands ∧ SameMemory s t ∧ ∀ m, m ≠ n.toNat → getLink t m = getLink s m
    let idle := l.txq = [] ∧ l.unacked = []
    (∀ seq hdr addr pay, s.fab.written = true → l.carries = true →
      let p : Packet := { hdr := hdr, addr := addr, pay := pay, left := true, here := if n.toNat < 8 then n.toNat else 24 + (n.toNat - 8) }
      let next := l.rxSeq + BitVec.ofNat 12 ((16 + (if Hp.cls p = 0 then 0 else 64) + 64 * Hp.len p + 239) / 240)
      (Gives (.flitReceive n seq false hdr addr pay) s (fun t => calm t ∧ t.fab.inbound = s.fab.inbound ∧
        link t = { l with crcerr := min (l.crcerr + 1) 65535 } ∧ Says s t [.flits n.toNat l.rxSeq.toNat false])) ∧
      (seq = l.rxSeq → Gives (.flitReceive n seq true hdr addr pay) s (fun t => calm t ∧ link t = { l with rxSeq := next } ∧
        t.fab.inbound = s.fab.inbound ++ [p] ∧ Says s t [.flits n.toNat (next - 1).toNat true])) ∧
      (seq ≠ l.rxSeq → Gives (.flitReceive n seq true hdr addr pay) s (fun t => t = s))) ∧
    (∀ lane, l.carries = true → bit l.lanes lane.toNat = true → let lanes : BitVec 4 := setBits l.lanes lane.toNat 1 0
      (2 ≤ popcount lanes → Gives (.laneFail n lane) s (fun t => calm t ∧ link t = { l with lanes := lanes, st := 3 })) ∧
      (popcount lanes < 2 → idle → Gives (.laneFail n lane) s (fun t => calm t ∧ link t = { l with lanes := 0, st := 0, arb := {} }))) ∧
    (∀ (peer : ModId) lanes, l.en = true →
      (2 ≤ popcount lanes → Gives (.linkTrained n peer lanes) s (fun t => calm t ∧ (link t).peer = peer.toNat ∧ (link t).lanes = lanes ∧
        (link t).st = (if popcount lanes = 4 then 2 else 3) ∧ (link t).en = true)) ∧
      (popcount lanes < 2 → idle → Gives (.linkTrained n peer lanes) s (fun t => calm t ∧ (link t).lanes = 0 ∧ (link t).st = 0))) ∧
    (l.en = false → s.fab.written = true → Gives (.flstatEnable n true) s (fun t => calm t ∧ link t = { l with en := true, st := 0, lanes := 0 })) ∧
    (idle → Gives (.flstatEnable n false) s (fun t => calm t ∧ link t = { l with en := false, st := 4, lanes := 0, arb := {} })) ∧
    (∀ v, Gives (.flstatCounterClear n v) s (fun t => calm t ∧ link t = { l with
      crcerr := if bitsN v 48 16 = 0 then l.crcerr else 0, replay := if bitsN v 32 16 = 0 then l.replay else 0 })) ∧
    (∀ (id : ModId), ((∃ x ∈ s.fab.links.vals, x.en = true) →
        Gives (.moduleIdWrite id) s (fun t => t = { s with host := t.host } ∧ Says s t [.refuse "MODULE_ID_WRITE" "REFUSED", .msix 0])) ∧
      ((∀ x ∈ s.fab.links.vals, x.en = false) → NoLockWaits s →
        Gives (.moduleIdWrite id) s (fun t => t.fab.modId = id ∧ t.fab.written = true ∧ Says s t [.reply "MODULE_ID_WRITE" [], .msix 0]))) ∧
    (s.fab.written = false → Gives (.flstatEnable n true) s (fun t => t = s) ∧ sendFlits s n.toNat = s ∧
      (∀ k p, s.fab.inbound[k.toNat]? = some p → p.bad = false → Hp.dmod p ≠ modN s → Gives (.packetForward k) s (fun t => t = s)) ∧
      ∀ seq ok hdr addr pay, Gives (.flitReceive n seq ok hdr addr pay) s (fun t => t = s)) ∧
    (∀ (i : ModId) v prim alt, Gives (.routeTableWrite i v prim alt) s (fun t => t.strands = s.strands ∧ SameMemory s t ∧
      ∀ m, t.fab.routes.getD m {} = if m = i.toNat then { valid := v, primary := prim, alternates := alt } else s.fab.routes.getD m {}))


/-! ### The host, the mailbox, trust -/

/-- The host's accesses (R34–R43, R48, R103, R105, R107, R108, R181, R215, R217): CURBSET, BUDGETSET, QUOTAGRANT, TSAVEAREA and PLIMSET set what their rules name, or refuse the value outside its range; a slot write is dropped when its slot is unbound, and rejected when its port does not take it; BAR2 reads and writes HBM within its size; BAR0 holds RBSEL, the slot map
and the counters to clear; every answer of the mailbox raises its MSI-X vector (log 54); PORTSET installs a descriptor that R39 and R40 allow; a marker of a running stream joins the entry channel. -/
def Obligations.HostAccess : Prop :=
  ∀ (s : State) (host : Bool), s.MemOk →
    let port (t : State) : HostPort := hostPort t host
    let h := port s
    let calm (t : State) : Prop := t.strands = s.strands ∧ SameMemory s t
    let answers (t : State) (cmd : String) (ws : List Word) : Prop := Says s t [.reply cmd ws, .msix 0]
    let refused (i : Instr) (cmd : String) : Prop :=
      Gives i s (fun t => t = { s with host := t.host } ∧ t.host.ports = s.host.ports ∧ Says s t [.refuse cmd "REFUSED", .msix 0])
    (∀ (slot : BitVec 13) (off : BitVec 12) data, let e := h.slots.getD slot.toNat 0
      let p := Slot.port e
      let ip := getIPort s p
      (Slot.v e = false → Gives (.hostIngressWrite host slot off data) s (fun t => calm t ∧ (port t).hostdrop = sat64 (h.hostdrop + 1) ∧ t.host.ports = s.host.ports)) ∧
      (Slot.v e = true → data.length ≠ 64 ∨ off.toNat % 64 ≠ 0 ∨ 0xE00 ≤ off.toNat ∨ Pd.host ip.desc = false ∨ Pd.mode ip.desc = 0 →
        Gives (.hostIngressWrite host slot off data) s (fun t => calm t ∧ (getIPort t p).rejected = sat64 (ip.rejected + 1) ∧ (port t).hostdrop = h.hostdrop)) ∧
      (Slot.v e = true → Pd.mode ip.desc = 1 → streamSide off.toNat (BitVec.ofNat 512 (ofBytes data)) = none →
        Gives (.hostIngressWrite host slot off data) s (fun t => calm t ∧ (getIPort t p).rejected = sat64 (ip.rejected + 1))) ∧
      (Slot.v e = true → data.length = 64 → off.toNat % 64 = 0 → off.toNat < 0x800 → Pd.host ip.desc = true → Pd.mode ip.desc = 3 ∨ Pd.mode ip.desc = 1 →
        Gives (.hostIngressWrite host slot off data) s (fun t => Pd.arrived (getIPort t p).desc = (Pd.arrived ip.desc + 1) % 2 ^ 48 ∧
          (getIPort t p).rejected = ip.rejected))) ∧
    (∀ off data key, data.length ≤ 512 → bar2Key s host off data.length = some key → NoLockWaits s →
      Gives (.hostBar2Store host off data) s (fun t => Stored s t key data ∧ SameDevices s t)) ∧
    (∀ off (len : BitVec 13), 0 < len.toNat → len.toNat ≤ 4096 →
      (∀ key, bar2Key s host off len.toNat = some key → poisoned s key len.toNat = false →
        Gives (.hostBar2Load host off len) s (fun t => calm t ∧ Says s t [.data ((List.range len.toNat).map (fun k => some (memRead s.mem (key + k))))])) ∧
      (∀ key, bar2Key s host off len.toNat = some key → poisoned s key len.toNat = true →
        Gives (.hostBar2Load host off len) s (fun t => calm t ∧ Says s t [.data (List.replicate len.toNat none)]))) ∧
    (∀ val, Gives (.bar0RegisterWrite host 0x2000010 val) s (fun t => calm t ∧ (port t).rbsel = val &&& rbselMask ∧ (port t).slots = h.slots)) ∧
    (∀ (k : BitVec 13) val, Gives (.bar0RegisterWrite host (0x2030000 + 8 * k.setWidth 26) val) s (fun t => calm t ∧
      ∀ j, (port t).slots.getD j 0 = if j = k.toNat then val &&& Slot.mask else h.slots.getD j 0)) ∧
    (∀ (die : DieId) (pn : BitVec 11), let p := die.toNat * 2048 + pn.toNat
      let ip := getIPort s p
      Gives (.portget die pn) s (fun t => calm t ∧ answers t "PORTGET" (splitWords ip.desc 4)) ∧
      (∀ d, (portsetBad s ip.desc d = true → refused (.portset die pn d) "PORTSET") ∧
        (portsetBad s ip.desc d = false → Gives (.portset die pn d) s (fun t => calm t ∧ answers t "PORTSET" [] ∧
          let ip' := getIPort t p
          Pd.mode ip'.desc = Pd.mode d ∧ Pd.atag ip'.desc = Pd.atag d ∧ Pd.rbase ip'.desc = Pd.rbase d ∧ Pd.caddr ip'.desc = Pd.caddr d ∧
          Pd.arrived ip'.desc = (if Pd.mode d = 0 then Pd.arrived ip.desc else 0) ∧ (Pd.mode d ≠ 0 → ip'.entry = 0 ∧ ip'.gaps = [] ∧ ip'.engaged = false)))) ∧
      (∀ c x id v ch, NoLockWaits s → Pd.mode ip.live = 1 → s.sec.ready = true → portSpace s ip.live = some c → ringTake s p = some x → ip.team = some id →
        s.teams.find? id = some v → v.state = .running → v.leave.closed = false → entryChannel s id = some ch → ip.part = [] →
        Sb.isMark x.2.1 = true → isEnd x.1 x.2.1 = false → Gives (.streamTokenMove die pn) s (fun t => Emits s t ch.1 1 [⟨x.1, x.2.1⟩]))) ∧
    (∀ (r : RegionId) (v : Word32), (v.toNat ≤ 16777215 → Gives (.curbset r v) s (fun t => calm t ∧ (getRegion t r.toNat).pool.curb = max 4096 v.toNat ∧
        answers t "CURBSET" [])) ∧
      (16777215 < v.toNat → refused (.curbset r v) "CURBSET")) ∧
    (∀ v : Word, (v.toNat < 2 ^ 40 → Gives (.budgetset v) s (fun t => calm t ∧ t.power.budget = v.toNat ∧ answers t "BUDGETSET" [])) ∧
      (2 ^ 40 ≤ v.toNat → refused (.budgetset v) "BUDGETSET")) ∧
    (∀ (team : TeamId) (v : Word), (∀ x, s.teams.find? team.toNat = some x → Gives (.quotagrant team v) s (fun t => calm t ∧
        (getTeam t team.toNat).energy.remain = min (x.energy.remain + v.toNat) (2 ^ 61 - 1) ∧ (getTeam t team.toNat).energy.en = x.energy.en ∧
        (0 < x.energy.remain + v.toNat → (getTeam t team.toNat).energy.exh = false ∧ (getTeam t team.toNat).energy.due = x.energy.due) ∧
        answers t "QUOTAGRANT" [])) ∧
      (s.teams.find? team.toNat = none → refused (.quotagrant team v) "QUOTAGRANT")) ∧
    (∀ a, Gives (.tsavearea a) s (fun t => calm t ∧ t.ost = { s.ost with tsave := a } ∧ answers t "TSAVEAREA" [])) ∧
    (∀ us : Half, (20 ≤ us.toNat ∧ us.toNat ≤ 10000 → Gives (.plimset us) s (fun t => calm t ∧ t.ost = { s.ost with plimit := us.toNat * 1000 } ∧ answers t "PLIMSET" [])) ∧
      (¬(20 ≤ us.toNat ∧ us.toNat ≤ 10000) → refused (.plimset us) "PLIMSET"))

/-- The trust commands (R44, R50, R51, R53–R58, R257): each does what its rule says to the trust record, or is refused and answers why; a measurement becomes the digest of itself, the type, the length and
the data; a nonce serves one attempt; the DEBUG_OPEN fuse stays blown. What FWLOAD does outside RECOVERY, the layout of a retirement token and the answer
to a token in BLANK, DEBUG_OPEN and RETIRED are the model's choice (log 51). -/
def Obligations.TrustCommands : Prop :=
  ∀ (s : State), s.MemOk → s.sec.meas.length = 8 →
    let meas (t : State) (k : Nat) : BitVec 512 := getMeas t.sec k
    let digest (k : Nat) (ty : Byte) (data : List Byte) : BitVec 512 :=
      BitVec.ofNat 512 (ofBytes (Shake.shake256 (toBytes (meas s k) 64 ++ [ty] ++ toBytes (BitVec.ofNat 32 data.length) 4 ++ data) 64))
    let refused (i : Instr) (cmd why : String) : Prop := Gives i s (fun t => t = { s with host := t.host } ∧ Says s t [.refuse cmd why, .msix 0])
    let module' (t : State) (os : List Out) : Prop := t = { s with host := t.host, sec := t.sec } ∧ Says s t os
    (∀ (i : BitVec 3) data, (measextOk i data = true → Gives (.measext i data) s (fun t => module' t [.reply "MEASEXT" [], .msix 0] ∧
        ∀ k, meas t k = if k = i.toNat then digest k (Config.measType k) data else meas s k)) ∧
      (measextOk i data = false → refused (.measext i data) "MEASEXT" "REFUSED")) ∧
    (∀ (id : Word32) addr len, (imgregOk s id addr len = true → Gives (.imgreg id addr len) s (fun t =>
        t.ost.images.find? id.toNat = some { addr := addr.toNat, len := len.toNat, serial := s.ost.serial } ∧ t.ost.serial = s.ost.serial + 1 ∧
        Says s t [.reply "IMGREG" [], .msix 0] ∧ t.strands = s.strands ∧ SameMemory s t ∧ ∀ k, meas t k = if k = 3 then digest 3 0x03 (imgEntry s id addr len) else meas s k)) ∧
      (imgregOk s id addr len = false → refused (.imgreg id addr len) "IMGREG" "REFUSED")) ∧
    (∀ (src : BitVec 2) nonce, (src ≠ 2 → s.sec.lcs = .blank → refused (.attestRequest src nonce) "ATTEST" "NOKEY") ∧
      (src ≠ 2 → s.sec.lcs ≠ .blank → 4 ≤ s.sec.att.length → refused (.attestRequest src nonce) "ATTEST" "BUSY") ∧
      (s.sec.lcs ≠ .blank → s.sec.att.length < 4 → Gives (.attestRequest src nonce) s (fun t =>
        t = { s with sec := { s.sec with att := s.sec.att ++ [(src, nonce)] } }))) ∧
    (∀ q rest, s.sec.att = q :: rest → let body := reportBody s.sec (if s.fab.written then modN s else 0) q.2
      Gives .attestReport s (fun t => t.sec = { s.sec with att := rest } ∧ body.length = 688 ∧ (Config.reportSignature s.sec.idSeed body).length = 49856 ∧
        module' t (.report q.1.toNat body (Config.reportSignature s.sec.idSeed body) :: if q.1 = 2 then [] else [.msix 0]))) ∧
    ((s.sec.lcs = .provisioned → Gives .deploy s (fun t => t.sec = { s.sec with lcs := .deployed } ∧ module' t [.reply "DEPLOY" [], .msix 0])) ∧
      (s.sec.lcs ≠ .provisioned → refused .deploy "DEPLOY" "REFUSED")) ∧
    (∀ device key, (s.sec.lcs = .blank → Gives (.provisioning device key) s (fun t =>
        t = { s with sec := { s.sec with lcs := .provisioned, device := device, idSeed := key } })) ∧
      (s.sec.lcs ≠ .blank → Gives (.provisioning device key) s (fun t => t = s))) ∧
    (∀ nonce, Gives (.dbgnonce nonce) s (fun t => t.sec = { s.sec with nonce := some nonce } ∧ module' t [.reply "DBGNONCE" (splitWords nonce 4), .msix 0])) ∧
    (∀ device lcs nonce sig, let good := unlockable s.sec = true ∧ tokenGood s.sec device lcs nonce sig = true
      (tenantLive s = true → refused (.dbgunlock device lcs nonce sig) "DBGUNLOCK" "BUSY") ∧
      (tenantLive s = false → good → Gives (.dbgunlock device lcs nonce sig) s (fun t => module' t [.reply "DBGUNLOCK" [], .msix 0] ∧
        t.sec.lcs = .debugOpen ∧ t.sec.dbg = true ∧ t.sec.opened = true ∧ t.sec.nonce = none ∧ ∀ k, k ≠ 2 → meas t k = meas s k)) ∧
      (tenantLive s = false → ¬good → Gives (.dbgunlock device lcs nonce sig) s (fun t => module' t [.refuse "DBGUNLOCK" "DENIED", .msix 0] ∧
        t.sec = { s.sec with nonce := none }))) ∧
    (∀ token, (retireGood s.sec token = true → Gives (.retire token) s (fun t => module' t [.reply "RETIRE" [], .msix 0] ∧ t.sec = { s.sec with lcs := .retired, nonce := none })) ∧
      (retireGood s.sec token = false → Gives (.retire token) s (fun t => module' t [.refuse "RETIRE" "DENIED", .msix 0] ∧ t.sec = { s.sec with nonce := none }))) ∧
    (∀ image, (s.sec.recovery = false → refused (.fwload image) "FWLOAD" "REFUSED") ∧
      (s.sec.recovery = true → Gives (.fwload image) s (fun t => t.sec.flash = some image ∧ t.sec = boot { s.sec with flash := some image } ∧
        t.strands.cells = [] ∧ t.clock = 0 ∧ t.sec.ready = false))) ∧
    (∀ nonce, Gives (.i3cRequest 0 nonce) s (fun t => t.sec = s.sec ∧ Says s t [.reply "I3C" [mstatWord s.sec]] ∧ SameMemory s t) ∧
      Gives (.i3cRequest 1 nonce) s (fun t => t.sec = s.sec ∧ Says s t [.reply "I3C" ((List.range 16).map (fun n => flstatWord (getLink s n)))] ∧ SameMemory s t) ∧
      Gives (.i3cRequest 2 nonce) s (fun t => t.sec = s.sec ∧ Says s t [.reply "I3C" [BitVec.ofNat 64 s.sec.lcs.code]] ∧ SameMemory s t) ∧
      (s.sec.lcs ≠ .blank → s.sec.att.length < 4 → Gives (.i3cRequest 6 nonce) s (fun t => t = { s with sec := { s.sec with att := s.sec.att ++ [(2, nonce)] } })) ∧
      Gives (.i3cRequest 7 nonce) s (fun t => t.sec = boot s.sec ∧ t.strands.cells = [] ∧ t.clock = 0))

/-! ### Power, heat, the debugger -/

/-- Reset, power and heat (R49, R51, R108, R109): a cold reset boots and leaves memory, SAVED teams and fuses; a region powers up with zeroed slices once every lower one is up, and the last one sets READY;
loss of power empties memory; the trips stand at 100, 105 and 125 °C and the warn trip ends 10 ms below 95 °C; a sensor samples every 10 µs. -/
def Obligations.PowerAndHeat : Prop :=
  ∀ (s : State), s.MemOk →
    Gives .coldReset s (fun t => t.sec = boot s.sec ∧ t.sec.lcs = s.sec.lcs ∧ t.sec.ready = false ∧ t.power.powered = true ∧ t.clock = 0 ∧ t.strands.cells = [] ∧
      t.tiles.cells = [] ∧ t.regions.cells = [] ∧ t.chans.cells = [] ∧ t.fab = {} ∧ (∀ id v, t.teams.find? id = some v → v.state = .saved) ∧
      (modN s = 0 → SameMemory s t)) ∧
    (∀ (r : RegionId),
      (mayPowerUp s r.toNat = true → (r = 127 → s.host.ports.cells = []) → Gives (.regionPowerUp r) s (fun t =>
        (getRegion t r.toNat).up = true ∧ (getRegion t r.toNat).lr = (getRegion s r.toNat).lr ∧ (∀ k, k < 256 → (getTile t r.toNat k).gait.cur = 0) ∧
        (∀ a, memRead t.mem a = if inSlices s r.toNat a = true then 0 else memRead s.mem a) ∧
        t.sec = { s.sec with ready := s.sec.ready || r == 127 } ∧ ∀ q, q ≠ r.toNat → getRegion t q = getRegion s q)) ∧
      (mayPowerUp s r.toNat = false → Gives (.regionPowerUp r) s (fun t => t = s))) ∧
    Gives .powerLoss s (fun t => t.power.powered = false ∧ t.sec = { s.sec with ready := false, booted := false } ∧
      ∀ a, memRead t.mem a = if a / 2 ^ 48 = modN s then 0 else memRead s.mem a) ∧
    (∀ (die : DieId) (c : BitVec 8), let d (t : State) : Die := getDie t die.toNat
      ((∀ x, (d s).sampled = some x → x + 10000 ≤ s.clock) → Gives (.thermalSample die c) s (fun t => (d t).sampled = some s.clock ∧ (d t).temp = c.toNat ∧ (d t).warn = ((d s).warn || decide (105 ≤ c.toNat)) ∧
        (d t).throttle = (if 100 ≤ c.toNat then true else if c.toNat < 95 then false else (d s).throttle) ∧
        t.power.powered = (s.power.powered && decide (c.toNat < 125)) ∧ (c.toNat < 125 → SameMemory s t) ∧
        (105 ≤ c.toNat → (d s).warn = false → ∀ r, r < 128 → regionDie r = die.toNat → (getRegion t r).hot = true) ∧
        ((d t).warn = true → ∀ id v r, s.teams.find? id = some v → v.id = id → v.state = .running → r ∈ v.regions → v.holds r = true → regionDie r = die.toNat →
          (getTeam t id).state = .saving ∧ (getTeam t id).leave.thermal = true ∧ (getTeam t id).leave.limit = 20000))) ∧
      (∀ x, (d s).sampled = some x → s.clock < x + 10000 → Gives (.thermalSample die c) s (fun t => t = s)) ∧
      (∀ x, (d s).warn = true → (d s).coolSince = some x → x + 10000000 ≤ s.clock → Gives (.thermalCooldown die) s (fun t =>
        (d t).warn = false ∧ t.strands = s.strands ∧ SameMemory s t ∧ ∀ r, r < 128 → regionDie r = die.toNat → (getRegion t r).hot = false)))

/-- The debugger and the firmware (R162, R221, R224): DATTACH, DSS and DDETACH set and clear DBA and SS; DSTOP stops a strand where it is, with its wait given up, or at its next instruction boundary while the firmware or CLOSE holds it or
its requests to other modules are under way; DRUN lets a stopped one go on from its frame; all are DENIED for a
tenant's strand of a DEPLOYED module. A forwarded fault enters the team's handler, unless its team is being saved or ended, or the region's oldest queued fault becomes an async cause. -/
def Obligations.DebuggerAndForwarding : Prop :=
  ∀ (s : State) (r : RegionId) (n : StrandNo), s.MemOk → NoLockWaits s →
    let i := sid r n
    let st (t : State) : Strand := getStrand t i
    let others (t : State) : Prop := ∀ k, k ≠ i → getStrand t k = getStrand s k
    let keys (k : Acc) (m : Nat) := frameKeys s { strandSpace s i with svm := handlerSvm s i } (st s).spr.tframe k m
    (debugDenied s i = true → ∀ v,
      let denied (j : Instr) (cmd : String) : Prop := Gives j s (fun t => t = { s with host := t.host } ∧ Says s t [.refuse cmd "DENIED", .msix 0])
      denied (.dattach r n) "DATTACH" ∧ denied (.ddetach r n) "DDETACH" ∧ denied (.dstop r n) "DSTOP" ∧ denied (.dss r n v) "DSS" ∧ denied (.drun r n) "DRUN") ∧
    (debugDenied s i = false →
      Gives (.dattach r n) s (fun t => st t = { st s with spr := { (st s).spr with dba := true } } ∧ others t ∧ SameMemory s t ∧ Says s t [.reply "DATTACH" [], .msix 0]) ∧
      (∀ v, Gives (.dss r n v) s (fun t => st t = { st s with spr := { (st s).spr with ss := v } } ∧ others t ∧ SameMemory s t ∧ Says s t [.reply "DSS" [], .msix 0])) ∧
      ((st s).run ≠ .stopped → Gives (.ddetach r n) s (fun t =>
        st t = { st s with spr := { (st s).spr with dba := false, ss := false }, traps := { (st s).traps with stopDue := false } } ∧ others t ∧ SameMemory s t ∧ Says s t [.reply "DDETACH" [], .msix 0])) ∧
      (let later := (st s).hold = some .firmware ∨ (st s).hold = some .closed ∨ (st s).traps.due.isSome = true ∨ (st s).live.any (·.effect) = true
       (later → (st s).run ≠ .stopped → (st s).hold ≠ some .killed →
          Gives (.dstop r n) s (fun t => st t = { st s with traps := { (st s).traps with stopDue := true } } ∧ others t ∧ SameMemory s t)) ∧
       (¬later → (st s).hold ≠ some .killed →
          ((st s).run = .ready → (st s).wait = none → Gives (.dstop r n) s (fun t => (st t).run = .stopped ∧ (st t).pc = (st s).pc ∧ (st t).regs = (st s).regs ∧
            (st t).spr = (st s).spr ∧ (st t).traps.replay = (st s).sentEntries ++ (st s).traps.replay)) ∧
          (∀ w, (st s).run = .waiting → (st s).wait = some w → Gives (.dstop r n) s (fun t => (st t).run = .stopped ∧ (st t).pc = (st s).pc ∧
            (st t).regs = (st s).regs ∧ (st t).wait = none ∧
            ∃ e, e.pc = w.pc ∧ e.insn = w.insn ∧ e.st = 3 ∧ (st t).traps.replay = (st s).sentEntries ++ e :: (st s).traps.replay)) ∧
          ((st s).run = .idle → Gives (.dstop r n) s (fun t =>
            (st t).run = .stopped ∧ (st t).pc = 0 ∧ (st t).regs = (st s).regs ∧ (st t).traps.replay = (st s).sentEntries)))) ∧
      (let ws := match keys .read 5 with
         | some ks => bytesWords (ks.flatMap (fun k => readBytes s k 64)) 40
         | none => (st s).traps.frame
       let ents := (List.range (bitsN (ws.getD 0 0) 8 4)).map (frameEntry ws)
       (st s).run = .stopped → bitsN (ws.getD 0 0) 8 4 ≤ 8 → Gives (.drun r n) s (fun t =>
        (st t).pc = ws.getD 6 0 ∧ (st t).spr = { (st s).spr with inh := false, svm := bit (ws.getD 7 0) 1 } ∧ (st t).regs = (st s).regs ∧
        (st t).run = (if ents = [] ∧ ws.getD 6 0 = 0 then .idle else .ready) ∧ (st t).traps.replay = ents ∧ others t ∧ SameMemory s t))) ∧
    (∀ c pc u, (st s).hold = some .firmware → (st s).traps.fw = some (c, pc) → (u = false ∨ c.code ≠ 0x04 ∨ inOpenTask s i = false) →
      ((teamOf s (i / 4)).getD {}).leave.closed = false → (st s).spr.inh = false → (st s).spr.tvec ≠ 0 →
      (keys .write 10).isSome = true → Gives (.faultForward r n u) s (fun t =>
        (st t).pc = (st s).spr.tvec ∧ (st t).run = .ready ∧ (st t).spr.inh = true ∧ bits (st t).spr.tcause 0 8 = c.code ∧ (st t).spr.tval = c.tval ∧
        (st t).spr.tpc = pc ∧ (st t).regs = (st s).regs ∧ (st t).traps.fw = none)) ∧
    ((st s).hold = some .firmware → (st s).traps.fw.isSome = true → ((teamOf s (i / 4)).getD {}).leave.closed = true →
      ∀ u, Gives (.faultForward r n u) s (fun t => t = s)) ∧
    (∀ e s' u, (st s).hold ≠ some .firmware → takeFault s (regionDie r.toNat) (fun e => bitsN e.w1 32 7 == r.toNat) = (some e, s') →
      let q := bitsN e.w2 0 48
      let w := causeStrand s r.toNat q
      (getStrand s w).traps.pend.length < 16 → Gives (.faultForward r n u) s (fun t => Pended t w (bits e.w1 56 8) q ∧ t.trans = s'.trans ∧ SameMemory s t))

/-! ### Actors and rings -/

/-- Actors at work (R102, R115–R117, R144–R146, R159, R359): the pick of a tile draws its cost from the pool and keeps the tile busy for its clocks; a firing leaves the values of its block, at once when it takes one tile clock and otherwise at its last tile clock, until which it is in progress with the tokens, the chains and the MMA words that it took when it began and the slice accesses it has made since; no consumption comes on a clock after a
later event of R143; a marker step takes its marker, a step of a join moves both positions on, two ENDs reset them; a mixed position of a TRAP join parks its actor; a memory-node request is performed at its home. -/
def Obligations.TileSteps : Prop :=
  ∀ (s : State) (r : RegionId) (k : TileId), s.MemOk →
    let rn := r.toNat
    let tn := k.toNat
    let tile (t : State) : Tile := getTile t rn tn
    let ctx := (tile s).active
    let head (a : Nat) : BitVec 128 := (((tile s).ctxs.getD ctx {}).actor a).hdr
    let act (t : State) (a : Nat) : Actor := ((tile t).ctxs.getD ctx {}).actor a
    let node (q : MReq) : Actor := ((tile s).ctxs.getD q.ctx {}).actor q.actor
    let drawn (t : State) (cost : Nat) : Prop := (getRegion t rn).pool.tokens = (getRegion s rn).pool.tokens - cost ∧ (getRegion t rn).pool.drawn = true ∧
      (getRegion t rn).pool.last = tn
    let busy (t : State) : Prop := (tile t).busy = s.clock + gaitClocks (tile s).gait.cur 1
    let mayTake (a : Nat) : Prop := mayConsume s rn tn (head a) = true
    (∀ p, (tile s).fir = some p →
      let x := resume s rn tn p 16 (2 ^ 16)
      (p.fin ≤ s.clock → mayEnd s rn tn p.ctx (((tile s).ctxs.getD p.ctx {}).actor p.actor).hdr = true → Gives (.actorFiring r k) s (fun t =>
        (tile t).fir = none ∧ (tile t).v = x.t.v ∧ (tile t).acc = x.t.acc ∧ (tile t).active = x.t.active)) ∧
      (s.clock < p.fin → Gives (.actorFiring r k) s (fun t => tile t = tile s ∧ (getRegion t rn).pool = (getRegion s rn).pool ∧ SameMemory s t))) ∧
    (∀ a c m f cost, (tile s).fir = none → Picked s rn tn a c (.fire m f) cost → let x := tryFire s rn tn a m f
      x.bad = none → x.chk.struck = false →
      (x.fir.clocks ≤ 1 → mayEnd s rn tn ctx (head a) = true → Gives (.actorFiring r k) s (fun t =>
        (tile t).busy = s.clock + gaitClocks (tile s).gait.cur x.fir.clocks ∧ (tile t).v = x.fir.t.v ∧ (tile t).acc = x.fir.t.acc ∧ (tile t).active = ctx ∧
        (tile t).fir = none ∧ (getRegion t rn).pool.tokens = (getRegion s rn).pool.tokens - cost)) ∧
      (1 < x.fir.clocks → Gives (.actorFiring r k) s (fun t => drawn t cost ∧ (tile t).v = (tile s).v ∧ (tile t).acc = (tile s).acc ∧ (s.part = [] → SameMemory s t) ∧
        (tile t).busy = s.clock + gaitClocks (tile s).gait.cur x.fir.clocks ∧
        (tile t).fir = some { ctx := ctx, actor := a, mark := m, fill := f, cost := cost, began := s.clock
                              fin := s.clock + gaitClocks (tile s).gait.cur (x.fir.clocks - 1), used := (List.range 8).map (usedBy s x.fir)
                              heads := (startFir s rn tn a m f).heads, chains := (tile s).chains, metas := x.chk.meta', free := x.chk.free }))) ∧
    (∀ a c n cost cb m, Picked s rn tn a c (.pass n) cost → mayTake a → inBranch s rn tn n = some cb → (getBranch s cb.1 cb.2).seen s.clock = .mark m →
      Gives (.markerStep r k) s (fun t => drawn t cost ∧ busy t ∧ (getBranch t cb.1 cb.2).buf = (getBranch s cb.1 cb.2).buf.tail ∧ (tile t).v = (tile s).v ∧ SameMemory s t)) ∧
    (∀ a c x y cost, Picked s rn tn a c (.gaps x y) cost → mayTake a → Gives (.joinGapStep r k) s (fun t => drawn t cost ∧ busy t ∧ SameMemory s t ∧
      (act t a).ja = (act s a).ja + min x.cnt y.cnt ∧ (act t a).jb = (act s a).jb + min x.cnt y.cnt)) ∧
    (∀ a c ge re g cost, Picked s rn tn a c (.out ge re g) cost → mayTake a → Gives (.joinGapStep r k) s (fun t => drawn t cost ∧ busy t ∧ SameMemory s t ∧
      (act t a).ja = (act s a).ja + 1 ∧ (act t a).jb = (act s a).jb + 1)) ∧
    (∀ a c cost, Picked s rn tn a c .ends cost → mayTake a → Gives (.joinEnd r k) s (fun t => drawn t cost ∧ busy t ∧ SameMemory s t ∧ (act t a).ja = 0 ∧ (act t a).jb = 0)) ∧
    (∀ a c, arbitrate ((tile s).ctxs.getD ctx {}) (readyActors s rn tn (tile s)) = some (a, c) → todoOf s rn tn (act s a) = .park → intervalOpen s = true →
      Gives (.joinGapStep r k) s (fun t => (act t a).trapped.map (·.code) = some 0x11 ∧ (getRegion t rn).pool = (getRegion s rn).pool ∧ SameMemory s t)) ∧
    (∀ tm q ps, teamOf s rn = some tm → (tile s).reqs.find? (fun q => (node q).park.isNone) = some q →
      Reached s (tm.spaceAt tm.svm rn) q.va 64 (if q.data.isSome then .write else .read) ps → Unwatched ps →
      let port := (List.range 8).find? (fun n => Hdr.ocnt (node q).hdr n != 0)
      let ch := port.bind (outChan s rn tn)
      (q.data = none → badAt s ps = none → Gives (.memnodeResponse r k) s (fun t => (tile t).reqs = (tile s).reqs.erase q ∧ SameMemory s t ∧ t.strands = s.strands ∧
        ∀ c, ch = some c → Sb.h q.side = true → Emits s t c 1 [⟨BitVec.ofNat 512 (ofBytes (readPieces s ps)), q.side⟩])) ∧
      (∀ d, q.data = some d → NoLockWaits s → Gives (.memnodeResponse r k) s (fun t => (tile t).reqs = (tile s).reqs.erase q ∧ WritesPieces s t ps (toBytes d 64)))) ∧
    (∀ a c m f cost, (tile s).fir = none → Picked s rn tn a c (.fire m f) cost → (tryFire s rn tn a m f).chk.struck = false → ∀ v, (tryFire s rn tn a m f).bad = some v →
      Gives (.actorFiring r k) s (fun t => (act t a).trapped.map (fun c => (c.code, c.tval)) = some (0x0F, v) ∧ drawn t cost ∧ head a = (act t a).hdr ∧ (s.part = [] → SameMemory s t)))

/-- Channels and the draw (R102, R103, R118, R136, R139, R141, R150): a record that lands leaves its flight, counts in SEQ and CUMW and, while the policy is not engaged, joins the buffer with the gaps before
it, but not on a clock after a tick of the Reins at that branch, nor before what its consumer does on that clock (R143); its way ends no sooner than the clock of R358; the spill ring's head moves into the buffer; a token moves from the extension ring to the landing buffer; a tick of the Reins is counted; an interval sets every pool to its grant and its debt. -/
def Obligations.RingSteps : Prop :=
  (∀ (s : State) (chid : Chid) (br : BitVec 2), s.MemOk →
    let c := getChan s chid.toNat
    let at' (t : State) : Branch := getBranch t chid.toNat br.toNat
    let b := at' s
    (∀ f rest, b.arrival s.clock = some (f, rest) → b.mayAct s.clock 3 = true → consumerDone s c b = true → Gives (.recordArrive chid br) s (fun t => (at' t).flight = rest)) ∧
    (∀ f rest, b.flight = f :: rest → s.clock < f.due → Gives (.recordArrive chid br) s (fun t => t = s)) ∧
    (b.mayAct s.clock 3 = false → Gives (.recordArrive chid br) s (fun t => t = s)) ∧
    (∀ f k rest, b.arrival s.clock = some (f, rest) → f.toks = [k] → b.mayAct s.clock 3 = true → consumerDone s c b = true → b.remote = false → b.kind ≠ 2 → Sb.isMark k.side = false →
      b.st.retest = false → b.st.eng = false → b.st.spocc = 0 → b.occ < Br.engm b.word →
      let toks := (junction (Head.pfmt c.head) (Br.cfmt b.word) (Br.rnd b.word) (Br.shift b.word) b.lfsr [k]).1
      Gives (.recordArrive chid br) s (fun t => (at' t).st.seq = (b.st.seq + 1) % 2 ^ 48 ∧ (at' t).st.cumw = sat64 (b.st.cumw + recWeight toks) ∧ (at' t).st.eng = false ∧
        ∃ i, (at' t).buf = b.buf ++ [i] ∧ i.seq = b.st.seq ∧ i.toks = toks ∧ i.gaps = b.st.allGaps ∧ i.mark = false)) ∧
    (∀ e ps, let u := spillPrep (stamp s chid.toNat br.toNat 2) chid.toNat br.toNat b.st.sphd .read
      b.mayAct s.clock 2 = true → consumerDone s c b = true → b.spill = [e] → e.mark = false → b.park = none → b.room c.head (Item.cost { gaps := e.gaps, seq := e.seq, toks := e.toks }) = true →
      spillPieces u chid.toNat br.toNat b.st.sphd .read = .ok ps → badAt u ps = none → Unwatched ps →
      Gives (.spillMove chid br) s (fun t => (at' t).spill = [] ∧ (at' t).st.spocc = 0 ∧
        ∃ i, (at' t).buf = b.buf ++ [i] ∧ i.seq = e.seq ∧ i.gaps = e.gaps ∧ i.toks = spillRead u ps e.toks.length)) ∧
    (b.usedSlots ≠ [] → b.landed < 16 → (∀ k ∈ b.usedSlots, poisoned s (extKey s c b k) 64 = false) → Gives (.extRingMove chid br) s (fun t =>
      (at' t).usedSlots.length + 1 = b.usedSlots.length ∧ (at' t).buf.length = b.buf.length ∧ (at' t).st = b.st ∧ t.strands = s.strands ∧ SameMemory s t))) ∧
  (∀ (s : State) (r : RegionId) (tm : Team), s.MemOk → teamOf s r.toNat = some tm →
    tm.state = .running ∨ tm.state = .retiring ∨ (tm.state = .saving ∧ tm.leave.quiet = false) →
    let g := getRegion s r.toNat
    (∀ n, s.clock = g.tick + (n + 1) * 2 ^ g.civ → tickFree s r.toNat = true → Gives (.reinsTick r) s (fun t => (getRegion t r.toNat).tick = s.clock ∧
      (getRegion t r.toNat).ctrs.getD 24 0 = sat64 (g.ctrs.getD 24 0 + 1) ∧ t.strands = s.strands ∧ SameMemory s t)) ∧
    ((∀ n, s.clock ≠ g.tick + (n + 1) * 2 ^ g.civ) → Gives (.reinsTick r) s (fun t => t = s))) ∧
  (∀ (s : State), s.MemOk → s.power.interval + 1000 ≤ s.clock → Gives .drawInterval s (fun t => t.power.interval = s.power.interval + 1000 ∧
    t.strands = s.strands ∧ SameMemory s t ∧ ∀ r, r < 128 →
      let grant := (grants ((List.range 128).map (wantOf s)) s.power.budget).getD r 0
      let p := (getRegion t r).pool
      p.grant = grant ∧ p.tokens = (grant : Int) + min (getRegion s r).pool.tokens 0 ∧ p.drawn = false ∧ p.curb = (getRegion s r).pool.curb))
end

