-- ==== Sys2Proof/Laws/State.lean ====
section
/-! SUPPORT. One lemma for each field and each update of State, and the laws of the keyed lists. -/

namespace Sys2Proof

namespace Assoc
variable {α : Type}

theorem findIn_putIn (l : List (Nat × α)) (k j : Nat) (v : α) : findIn (putIn l k v) j = if k = j then some v else findIn l j := by
  induction l with
  | nil => simp [putIn, findIn]
  | cons c t ih =>
    obtain ⟨k', v'⟩ := c
    by_cases h : k' = k
    · subst h
      by_cases h2 : k' = j <;> simp [putIn, findIn, h2]
    · by_cases h2 : k' = j
      · subst h2
        simp [putIn, findIn, h, Ne.symm h]
      · simp [putIn, findIn, h, h2, ih]

@[simp] theorem find?_put (m : Assoc α) (k j : Nat) (v : α) : (m.put k v).find? j = if k = j then some v else m.find? j :=
  findIn_putIn m.cells k j v

@[simp] theorem getD_put (m : Assoc α) (k j : Nat) (v d : α) : (m.put k v).getD j d = if k = j then v else m.getD j d := by
  unfold getD
  by_cases h : k = j <;> simp [h]

theorem findIn_mapVals (f : Nat → α → α) (l : List (Nat × α)) (k : Nat) :
    findIn (l.map (fun c => (c.1, f c.1 c.2))) k = (findIn l k).map (f k) := by
  induction l with
  | nil => rfl
  | cons c t ih =>
    obtain ⟨k', v'⟩ := c
    by_cases h : k' = k
    · subst h; simp [findIn]
    · simp [findIn, h, ih]

@[simp] theorem find?_mapVals (m : Assoc α) (f : Nat → α → α) (k : Nat) : (m.mapVals f).find? k = (m.find? k).map (f k) :=
  findIn_mapVals f m.cells k

theorem getD_mapVals (m : Assoc α) (f : Nat → α → α) (k : Nat) (d : α) :
    (m.mapVals f).getD k d = ((m.find? k).map (f k)).getD d := by simp [getD]

end Assoc

namespace Machine

@[simp] theorem setStrand_clock (s : State) (i : Nat) (x : Strand) : (setStrand s i x).clock = s.clock := rfl
@[simp] theorem setStrand_mem (s : State) (i : Nat) (x : Strand) : (setStrand s i x).mem = s.mem := rfl
@[simp] theorem setStrand_wlog (s : State) (i : Nat) (x : Strand) : (setStrand s i x).wlog = s.wlog := rfl
@[simp] theorem setStrand_poison (s : State) (i : Nat) (x : Strand) : (setStrand s i x).poison = s.poison := rfl
@[simp] theorem setStrand_hidden (s : State) (i : Nat) (x : Strand) : (setStrand s i x).hidden = s.hidden := rfl
@[simp] theorem setStrand_part (s : State) (i : Nat) (x : Strand) : (setStrand s i x).part = s.part := rfl
@[simp] theorem setStrand_regions (s : State) (i : Nat) (x : Strand) : (setStrand s i x).regions = s.regions := rfl
@[simp] theorem setStrand_tiles (s : State) (i : Nat) (x : Strand) : (setStrand s i x).tiles = s.tiles := rfl
@[simp] theorem setStrand_chans (s : State) (i : Nat) (x : Strand) : (setStrand s i x).chans = s.chans := rfl
@[simp] theorem setStrand_teams (s : State) (i : Nat) (x : Strand) : (setStrand s i x).teams = s.teams := rfl
@[simp] theorem setStrand_ost (s : State) (i : Nat) (x : Strand) : (setStrand s i x).ost = s.ost := rfl
@[simp] theorem setStrand_saves (s : State) (i : Nat) (x : Strand) : (setStrand s i x).saves = s.saves := rfl
@[simp] theorem setStrand_teth (s : State) (i : Nat) (x : Strand) : (setStrand s i x).teth = s.teth := rfl
@[simp] theorem setStrand_trans (s : State) (i : Nat) (x : Strand) : (setStrand s i x).trans = s.trans := rfl
@[simp] theorem setStrand_trees (s : State) (i : Nat) (x : Strand) : (setStrand s i x).trees = s.trees := rfl
@[simp] theorem setStrand_fab (s : State) (i : Nat) (x : Strand) : (setStrand s i x).fab = s.fab := rfl
@[simp] theorem setStrand_host (s : State) (i : Nat) (x : Strand) : (setStrand s i x).host = s.host := rfl
@[simp] theorem setStrand_sec (s : State) (i : Nat) (x : Strand) : (setStrand s i x).sec = s.sec := rfl
@[simp] theorem setStrand_power (s : State) (i : Nat) (x : Strand) : (setStrand s i x).power = s.power := rfl
@[simp] theorem setStrand_cur (s : State) (i : Nat) (x : Strand) : (setStrand s i x).cur = s.cur := rfl
@[simp] theorem setStrand_schedule (s : State) (i : Nat) (x : Strand) : (setStrand s i x).schedule = s.schedule := rfl
@[simp] theorem setStrand_free (s : State) (i : Nat) (x : Strand) : (setStrand s i x).free = s.free := rfl

@[simp] theorem updStrand_clock (s : State) (i : Nat) (f : Strand → Strand) : (updStrand s i f).clock = s.clock := rfl
@[simp] theorem updStrand_mem (s : State) (i : Nat) (f : Strand → Strand) : (updStrand s i f).mem = s.mem := rfl
@[simp] theorem updStrand_wlog (s : State) (i : Nat) (f : Strand → Strand) : (updStrand s i f).wlog = s.wlog := rfl
@[simp] theorem updStrand_poison (s : State) (i : Nat) (f : Strand → Strand) : (updStrand s i f).poison = s.poison := rfl
@[simp] theorem updStrand_hidden (s : State) (i : Nat) (f : Strand → Strand) : (updStrand s i f).hidden = s.hidden := rfl
@[simp] theorem updStrand_part (s : State) (i : Nat) (f : Strand → Strand) : (updStrand s i f).part = s.part := rfl
@[simp] theorem updStrand_regions (s : State) (i : Nat) (f : Strand → Strand) : (updStrand s i f).regions = s.regions := rfl
@[simp] theorem updStrand_tiles (s : State) (i : Nat) (f : Strand → Strand) : (updStrand s i f).tiles = s.tiles := rfl
@[simp] theorem updStrand_chans (s : State) (i : Nat) (f : Strand → Strand) : (updStrand s i f).chans = s.chans := rfl
@[simp] theorem updStrand_teams (s : State) (i : Nat) (f : Strand → Strand) : (updStrand s i f).teams = s.teams := rfl
@[simp] theorem updStrand_ost (s : State) (i : Nat) (f : Strand → Strand) : (updStrand s i f).ost = s.ost := rfl
@[simp] theorem updStrand_saves (s : State) (i : Nat) (f : Strand → Strand) : (updStrand s i f).saves = s.saves := rfl
@[simp] theorem updStrand_teth (s : State) (i : Nat) (f : Strand → Strand) : (updStrand s i f).teth = s.teth := rfl
@[simp] theorem updStrand_trans (s : State) (i : Nat) (f : Strand → Strand) : (updStrand s i f).trans = s.trans := rfl
@[simp] theorem updStrand_trees (s : State) (i : Nat) (f : Strand → Strand) : (updStrand s i f).trees = s.trees := rfl
@[simp] theorem updStrand_fab (s : State) (i : Nat) (f : Strand → Strand) : (updStrand s i f).fab = s.fab := rfl
@[simp] theorem updStrand_host (s : State) (i : Nat) (f : Strand → Strand) : (updStrand s i f).host = s.host := rfl
@[simp] theorem updStrand_sec (s : State) (i : Nat) (f : Strand → Strand) : (updStrand s i f).sec = s.sec := rfl
@[simp] theorem updStrand_power (s : State) (i : Nat) (f : Strand → Strand) : (updStrand s i f).power = s.power := rfl
@[simp] theorem updStrand_cur (s : State) (i : Nat) (f : Strand → Strand) : (updStrand s i f).cur = s.cur := rfl
@[simp] theorem updStrand_schedule (s : State) (i : Nat) (f : Strand → Strand) : (updStrand s i f).schedule = s.schedule := rfl
@[simp] theorem updStrand_free (s : State) (i : Nat) (f : Strand → Strand) : (updStrand s i f).free = s.free := rfl

@[simp] theorem updSelf_clock (s : State) (f : Strand → Strand) : (updSelf s f).clock = s.clock := rfl
@[simp] theorem updSelf_mem (s : State) (f : Strand → Strand) : (updSelf s f).mem = s.mem := rfl
@[simp] theorem updSelf_wlog (s : State) (f : Strand → Strand) : (updSelf s f).wlog = s.wlog := rfl
@[simp] theorem updSelf_poison (s : State) (f : Strand → Strand) : (updSelf s f).poison = s.poison := rfl
@[simp] theorem updSelf_hidden (s : State) (f : Strand → Strand) : (updSelf s f).hidden = s.hidden := rfl
@[simp] theorem updSelf_part (s : State) (f : Strand → Strand) : (updSelf s f).part = s.part := rfl
@[simp] theorem updSelf_regions (s : State) (f : Strand → Strand) : (updSelf s f).regions = s.regions := rfl
@[simp] theorem updSelf_tiles (s : State) (f : Strand → Strand) : (updSelf s f).tiles = s.tiles := rfl
@[simp] theorem updSelf_chans (s : State) (f : Strand → Strand) : (updSelf s f).chans = s.chans := rfl
@[simp] theorem updSelf_teams (s : State) (f : Strand → Strand) : (updSelf s f).teams = s.teams := rfl
@[simp] theorem updSelf_ost (s : State) (f : Strand → Strand) : (updSelf s f).ost = s.ost := rfl
@[simp] theorem updSelf_saves (s : State) (f : Strand → Strand) : (updSelf s f).saves = s.saves := rfl
@[simp] theorem updSelf_teth (s : State) (f : Strand → Strand) : (updSelf s f).teth = s.teth := rfl
@[simp] theorem updSelf_trans (s : State) (f : Strand → Strand) : (updSelf s f).trans = s.trans := rfl
@[simp] theorem updSelf_trees (s : State) (f : Strand → Strand) : (updSelf s f).trees = s.trees := rfl
@[simp] theorem updSelf_fab (s : State) (f : Strand → Strand) : (updSelf s f).fab = s.fab := rfl
@[simp] theorem updSelf_host (s : State) (f : Strand → Strand) : (updSelf s f).host = s.host := rfl
@[simp] theorem updSelf_sec (s : State) (f : Strand → Strand) : (updSelf s f).sec = s.sec := rfl
@[simp] theorem updSelf_power (s : State) (f : Strand → Strand) : (updSelf s f).power = s.power := rfl
@[simp] theorem updSelf_cur (s : State) (f : Strand → Strand) : (updSelf s f).cur = s.cur := rfl
@[simp] theorem updSelf_schedule (s : State) (f : Strand → Strand) : (updSelf s f).schedule = s.schedule := rfl
@[simp] theorem updSelf_free (s : State) (f : Strand → Strand) : (updSelf s f).free = s.free := rfl

@[simp] theorem setG_clock (s : State) (d : Reg) (v : Word) : (setG s d v).clock = s.clock := by unfold setG; split <;> rfl
@[simp] theorem setG_mem (s : State) (d : Reg) (v : Word) : (setG s d v).mem = s.mem := by unfold setG; split <;> rfl
@[simp] theorem setG_wlog (s : State) (d : Reg) (v : Word) : (setG s d v).wlog = s.wlog := by unfold setG; split <;> rfl
@[simp] theorem setG_poison (s : State) (d : Reg) (v : Word) : (setG s d v).poison = s.poison := by unfold setG; split <;> rfl
@[simp] theorem setG_hidden (s : State) (d : Reg) (v : Word) : (setG s d v).hidden = s.hidden := by unfold setG; split <;> rfl
@[simp] theorem setG_part (s : State) (d : Reg) (v : Word) : (setG s d v).part = s.part := by unfold setG; split <;> rfl
@[simp] theorem setG_regions (s : State) (d : Reg) (v : Word) : (setG s d v).regions = s.regions := by unfold setG; split <;> rfl
@[simp] theorem setG_tiles (s : State) (d : Reg) (v : Word) : (setG s d v).tiles = s.tiles := by unfold setG; split <;> rfl
@[simp] theorem setG_chans (s : State) (d : Reg) (v : Word) : (setG s d v).chans = s.chans := by unfold setG; split <;> rfl
@[simp] theorem setG_teams (s : State) (d : Reg) (v : Word) : (setG s d v).teams = s.teams := by unfold setG; split <;> rfl
@[simp] theorem setG_ost (s : State) (d : Reg) (v : Word) : (setG s d v).ost = s.ost := by unfold setG; split <;> rfl
@[simp] theorem setG_saves (s : State) (d : Reg) (v : Word) : (setG s d v).saves = s.saves := by unfold setG; split <;> rfl
@[simp] theorem setG_teth (s : State) (d : Reg) (v : Word) : (setG s d v).teth = s.teth := by unfold setG; split <;> rfl
@[simp] theorem setG_trans (s : State) (d : Reg) (v : Word) : (setG s d v).trans = s.trans := by unfold setG; split <;> rfl
@[simp] theorem setG_trees (s : State) (d : Reg) (v : Word) : (setG s d v).trees = s.trees := by unfold setG; split <;> rfl
@[simp] theorem setG_fab (s : State) (d : Reg) (v : Word) : (setG s d v).fab = s.fab := by unfold setG; split <;> rfl
@[simp] theorem setG_host (s : State) (d : Reg) (v : Word) : (setG s d v).host = s.host := by unfold setG; split <;> rfl
@[simp] theorem setG_sec (s : State) (d : Reg) (v : Word) : (setG s d v).sec = s.sec := by unfold setG; split <;> rfl
@[simp] theorem setG_power (s : State) (d : Reg) (v : Word) : (setG s d v).power = s.power := by unfold setG; split <;> rfl
@[simp] theorem setG_cur (s : State) (d : Reg) (v : Word) : (setG s d v).cur = s.cur := by unfold setG; split <;> rfl
@[simp] theorem setG_schedule (s : State) (d : Reg) (v : Word) : (setG s d v).schedule = s.schedule := by unfold setG; split <;> rfl
@[simp] theorem setG_free (s : State) (d : Reg) (v : Word) : (setG s d v).free = s.free := by unfold setG; split <;> rfl

@[simp] theorem setRegion_clock (s : State) (r : Nat) (x : Region) : (setRegion s r x).clock = s.clock := rfl
@[simp] theorem setRegion_mem (s : State) (r : Nat) (x : Region) : (setRegion s r x).mem = s.mem := rfl
@[simp] theorem setRegion_wlog (s : State) (r : Nat) (x : Region) : (setRegion s r x).wlog = s.wlog := rfl
@[simp] theorem setRegion_poison (s : State) (r : Nat) (x : Region) : (setRegion s r x).poison = s.poison := rfl
@[simp] theorem setRegion_hidden (s : State) (r : Nat) (x : Region) : (setRegion s r x).hidden = s.hidden := rfl
@[simp] theorem setRegion_part (s : State) (r : Nat) (x : Region) : (setRegion s r x).part = s.part := rfl
@[simp] theorem setRegion_strands (s : State) (r : Nat) (x : Region) : (setRegion s r x).strands = s.strands := rfl
@[simp] theorem setRegion_tiles (s : State) (r : Nat) (x : Region) : (setRegion s r x).tiles = s.tiles := rfl
@[simp] theorem setRegion_chans (s : State) (r : Nat) (x : Region) : (setRegion s r x).chans = s.chans := rfl
@[simp] theorem setRegion_teams (s : State) (r : Nat) (x : Region) : (setRegion s r x).teams = s.teams := rfl
@[simp] theorem setRegion_ost (s : State) (r : Nat) (x : Region) : (setRegion s r x).ost = s.ost := rfl
@[simp] theorem setRegion_saves (s : State) (r : Nat) (x : Region) : (setRegion s r x).saves = s.saves := rfl
@[simp] theorem setRegion_teth (s : State) (r : Nat) (x : Region) : (setRegion s r x).teth = s.teth := rfl
@[simp] theorem setRegion_trans (s : State) (r : Nat) (x : Region) : (setRegion s r x).trans = s.trans := rfl
@[simp] theorem setRegion_trees (s : State) (r : Nat) (x : Region) : (setRegion s r x).trees = s.trees := rfl
@[simp] theorem setRegion_fab (s : State) (r : Nat) (x : Region) : (setRegion s r x).fab = s.fab := rfl
@[simp] theorem setRegion_host (s : State) (r : Nat) (x : Region) : (setRegion s r x).host = s.host := rfl
@[simp] theorem setRegion_sec (s : State) (r : Nat) (x : Region) : (setRegion s r x).sec = s.sec := rfl
@[simp] theorem setRegion_power (s : State) (r : Nat) (x : Region) : (setRegion s r x).power = s.power := rfl
@[simp] theorem setRegion_cur (s : State) (r : Nat) (x : Region) : (setRegion s r x).cur = s.cur := rfl
@[simp] theorem setRegion_schedule (s : State) (r : Nat) (x : Region) : (setRegion s r x).schedule = s.schedule := rfl
@[simp] theorem setRegion_free (s : State) (r : Nat) (x : Region) : (setRegion s r x).free = s.free := rfl

@[simp] theorem updRegion_clock (s : State) (r : Nat) (f : Region → Region) : (updRegion s r f).clock = s.clock := rfl
@[simp] theorem updRegion_mem (s : State) (r : Nat) (f : Region → Region) : (updRegion s r f).mem = s.mem := rfl
@[simp] theorem updRegion_wlog (s : State) (r : Nat) (f : Region → Region) : (updRegion s r f).wlog = s.wlog := rfl
@[simp] theorem updRegion_poison (s : State) (r : Nat) (f : Region → Region) : (updRegion s r f).poison = s.poison := rfl
@[simp] theorem updRegion_hidden (s : State) (r : Nat) (f : Region → Region) : (updRegion s r f).hidden = s.hidden := rfl
@[simp] theorem updRegion_part (s : State) (r : Nat) (f : Region → Region) : (updRegion s r f).part = s.part := rfl
@[simp] theorem updRegion_strands (s : State) (r : Nat) (f : Region → Region) : (updRegion s r f).strands = s.strands := rfl
@[simp] theorem updRegion_tiles (s : State) (r : Nat) (f : Region → Region) : (updRegion s r f).tiles = s.tiles := rfl
@[simp] theorem updRegion_chans (s : State) (r : Nat) (f : Region → Region) : (updRegion s r f).chans = s.chans := rfl
@[simp] theorem updRegion_teams (s : State) (r : Nat) (f : Region → Region) : (updRegion s r f).teams = s.teams := rfl
@[simp] theorem updRegion_ost (s : State) (r : Nat) (f : Region → Region) : (updRegion s r f).ost = s.ost := rfl
@[simp] theorem updRegion_saves (s : State) (r : Nat) (f : Region → Region) : (updRegion s r f).saves = s.saves := rfl
@[simp] theorem updRegion_teth (s : State) (r : Nat) (f : Region → Region) : (updRegion s r f).teth = s.teth := rfl
@[simp] theorem updRegion_trans (s : State) (r : Nat) (f : Region → Region) : (updRegion s r f).trans = s.trans := rfl
@[simp] theorem updRegion_trees (s : State) (r : Nat) (f : Region → Region) : (updRegion s r f).trees = s.trees := rfl
@[simp] theorem updRegion_fab (s : State) (r : Nat) (f : Region → Region) : (updRegion s r f).fab = s.fab := rfl
@[simp] theorem updRegion_host (s : State) (r : Nat) (f : Region → Region) : (updRegion s r f).host = s.host := rfl
@[simp] theorem updRegion_sec (s : State) (r : Nat) (f : Region → Region) : (updRegion s r f).sec = s.sec := rfl
@[simp] theorem updRegion_power (s : State) (r : Nat) (f : Region → Region) : (updRegion s r f).power = s.power := rfl
@[simp] theorem updRegion_cur (s : State) (r : Nat) (f : Region → Region) : (updRegion s r f).cur = s.cur := rfl
@[simp] theorem updRegion_schedule (s : State) (r : Nat) (f : Region → Region) : (updRegion s r f).schedule = s.schedule := rfl
@[simp] theorem updRegion_free (s : State) (r : Nat) (f : Region → Region) : (updRegion s r f).free = s.free := rfl

@[simp] theorem setTile_clock (s : State) (r k : Nat) (x : Tile) : (setTile s r k x).clock = s.clock := rfl
@[simp] theorem setTile_mem (s : State) (r k : Nat) (x : Tile) : (setTile s r k x).mem = s.mem := rfl
@[simp] theorem setTile_wlog (s : State) (r k : Nat) (x : Tile) : (setTile s r k x).wlog = s.wlog := rfl
@[simp] theorem setTile_poison (s : State) (r k : Nat) (x : Tile) : (setTile s r k x).poison = s.poison := rfl
@[simp] theorem setTile_hidden (s : State) (r k : Nat) (x : Tile) : (setTile s r k x).hidden = s.hidden := rfl
@[simp] theorem setTile_part (s : State) (r k : Nat) (x : Tile) : (setTile s r k x).part = s.part := rfl
@[simp] theorem setTile_strands (s : State) (r k : Nat) (x : Tile) : (setTile s r k x).strands = s.strands := rfl
@[simp] theorem setTile_regions (s : State) (r k : Nat) (x : Tile) : (setTile s r k x).regions = s.regions := rfl
@[simp] theorem setTile_chans (s : State) (r k : Nat) (x : Tile) : (setTile s r k x).chans = s.chans := rfl
@[simp] theorem setTile_teams (s : State) (r k : Nat) (x : Tile) : (setTile s r k x).teams = s.teams := rfl
@[simp] theorem setTile_ost (s : State) (r k : Nat) (x : Tile) : (setTile s r k x).ost = s.ost := rfl
@[simp] theorem setTile_saves (s : State) (r k : Nat) (x : Tile) : (setTile s r k x).saves = s.saves := rfl
@[simp] theorem setTile_teth (s : State) (r k : Nat) (x : Tile) : (setTile s r k x).teth = s.teth := rfl
@[simp] theorem setTile_trans (s : State) (r k : Nat) (x : Tile) : (setTile s r k x).trans = s.trans := rfl
@[simp] theorem setTile_trees (s : State) (r k : Nat) (x : Tile) : (setTile s r k x).trees = s.trees := rfl
@[simp] theorem setTile_fab (s : State) (r k : Nat) (x : Tile) : (setTile s r k x).fab = s.fab := rfl
@[simp] theorem setTile_host (s : State) (r k : Nat) (x : Tile) : (setTile s r k x).host = s.host := rfl
@[simp] theorem setTile_sec (s : State) (r k : Nat) (x : Tile) : (setTile s r k x).sec = s.sec := rfl
@[simp] theorem setTile_power (s : State) (r k : Nat) (x : Tile) : (setTile s r k x).power = s.power := rfl
@[simp] theorem setTile_cur (s : State) (r k : Nat) (x : Tile) : (setTile s r k x).cur = s.cur := rfl
@[simp] theorem setTile_schedule (s : State) (r k : Nat) (x : Tile) : (setTile s r k x).schedule = s.schedule := rfl
@[simp] theorem setTile_free (s : State) (r k : Nat) (x : Tile) : (setTile s r k x).free = s.free := rfl

@[simp] theorem updTile_clock (s : State) (r k : Nat) (f : Tile → Tile) : (updTile s r k f).clock = s.clock := rfl
@[simp] theorem updTile_mem (s : State) (r k : Nat) (f : Tile → Tile) : (updTile s r k f).mem = s.mem := rfl
@[simp] theorem updTile_wlog (s : State) (r k : Nat) (f : Tile → Tile) : (updTile s r k f).wlog = s.wlog := rfl
@[simp] theorem updTile_poison (s : State) (r k : Nat) (f : Tile → Tile) : (updTile s r k f).poison = s.poison := rfl
@[simp] theorem updTile_hidden (s : State) (r k : Nat) (f : Tile → Tile) : (updTile s r k f).hidden = s.hidden := rfl
@[simp] theorem updTile_part (s : State) (r k : Nat) (f : Tile → Tile) : (updTile s r k f).part = s.part := rfl
@[simp] theorem updTile_strands (s : State) (r k : Nat) (f : Tile → Tile) : (updTile s r k f).strands = s.strands := rfl
@[simp] theorem updTile_regions (s : State) (r k : Nat) (f : Tile → Tile) : (updTile s r k f).regions = s.regions := rfl
@[simp] theorem updTile_chans (s : State) (r k : Nat) (f : Tile → Tile) : (updTile s r k f).chans = s.chans := rfl
@[simp] theorem updTile_teams (s : State) (r k : Nat) (f : Tile → Tile) : (updTile s r k f).teams = s.teams := rfl
@[simp] theorem updTile_ost (s : State) (r k : Nat) (f : Tile → Tile) : (updTile s r k f).ost = s.ost := rfl
@[simp] theorem updTile_saves (s : State) (r k : Nat) (f : Tile → Tile) : (updTile s r k f).saves = s.saves := rfl
@[simp] theorem updTile_teth (s : State) (r k : Nat) (f : Tile → Tile) : (updTile s r k f).teth = s.teth := rfl
@[simp] theorem updTile_trans (s : State) (r k : Nat) (f : Tile → Tile) : (updTile s r k f).trans = s.trans := rfl
@[simp] theorem updTile_trees (s : State) (r k : Nat) (f : Tile → Tile) : (updTile s r k f).trees = s.trees := rfl
@[simp] theorem updTile_fab (s : State) (r k : Nat) (f : Tile → Tile) : (updTile s r k f).fab = s.fab := rfl
@[simp] theorem updTile_host (s : State) (r k : Nat) (f : Tile → Tile) : (updTile s r k f).host = s.host := rfl
@[simp] theorem updTile_sec (s : State) (r k : Nat) (f : Tile → Tile) : (updTile s r k f).sec = s.sec := rfl
@[simp] theorem updTile_power (s : State) (r k : Nat) (f : Tile → Tile) : (updTile s r k f).power = s.power := rfl
@[simp] theorem updTile_cur (s : State) (r k : Nat) (f : Tile → Tile) : (updTile s r k f).cur = s.cur := rfl
@[simp] theorem updTile_schedule (s : State) (r k : Nat) (f : Tile → Tile) : (updTile s r k f).schedule = s.schedule := rfl
@[simp] theorem updTile_free (s : State) (r k : Nat) (f : Tile → Tile) : (updTile s r k f).free = s.free := rfl

@[simp] theorem setTeam_clock (s : State) (id : Nat) (x : Team) : (setTeam s id x).clock = s.clock := rfl
@[simp] theorem setTeam_mem (s : State) (id : Nat) (x : Team) : (setTeam s id x).mem = s.mem := rfl
@[simp] theorem setTeam_wlog (s : State) (id : Nat) (x : Team) : (setTeam s id x).wlog = s.wlog := rfl
@[simp] theorem setTeam_poison (s : State) (id : Nat) (x : Team) : (setTeam s id x).poison = s.poison := rfl
@[simp] theorem setTeam_hidden (s : State) (id : Nat) (x : Team) : (setTeam s id x).hidden = s.hidden := rfl
@[simp] theorem setTeam_part (s : State) (id : Nat) (x : Team) : (setTeam s id x).part = s.part := rfl
@[simp] theorem setTeam_strands (s : State) (id : Nat) (x : Team) : (setTeam s id x).strands = s.strands := rfl
@[simp] theorem setTeam_regions (s : State) (id : Nat) (x : Team) : (setTeam s id x).regions = s.regions := rfl
@[simp] theorem setTeam_tiles (s : State) (id : Nat) (x : Team) : (setTeam s id x).tiles = s.tiles := rfl
@[simp] theorem setTeam_chans (s : State) (id : Nat) (x : Team) : (setTeam s id x).chans = s.chans := rfl
@[simp] theorem setTeam_ost (s : State) (id : Nat) (x : Team) : (setTeam s id x).ost = s.ost := rfl
@[simp] theorem setTeam_saves (s : State) (id : Nat) (x : Team) : (setTeam s id x).saves = s.saves := rfl
@[simp] theorem setTeam_teth (s : State) (id : Nat) (x : Team) : (setTeam s id x).teth = s.teth := rfl
@[simp] theorem setTeam_trans (s : State) (id : Nat) (x : Team) : (setTeam s id x).trans = s.trans := rfl
@[simp] theorem setTeam_trees (s : State) (id : Nat) (x : Team) : (setTeam s id x).trees = s.trees := rfl
@[simp] theorem setTeam_fab (s : State) (id : Nat) (x : Team) : (setTeam s id x).fab = s.fab := rfl
@[simp] theorem setTeam_host (s : State) (id : Nat) (x : Team) : (setTeam s id x).host = s.host := rfl
@[simp] theorem setTeam_sec (s : State) (id : Nat) (x : Team) : (setTeam s id x).sec = s.sec := rfl
@[simp] theorem setTeam_power (s : State) (id : Nat) (x : Team) : (setTeam s id x).power = s.power := rfl
@[simp] theorem setTeam_cur (s : State) (id : Nat) (x : Team) : (setTeam s id x).cur = s.cur := rfl
@[simp] theorem setTeam_schedule (s : State) (id : Nat) (x : Team) : (setTeam s id x).schedule = s.schedule := rfl
@[simp] theorem setTeam_free (s : State) (id : Nat) (x : Team) : (setTeam s id x).free = s.free := rfl

@[simp] theorem setChan_clock (s : State) (c : Nat) (x : Chan) : (setChan s c x).clock = s.clock := rfl
@[simp] theorem setChan_mem (s : State) (c : Nat) (x : Chan) : (setChan s c x).mem = s.mem := rfl
@[simp] theorem setChan_wlog (s : State) (c : Nat) (x : Chan) : (setChan s c x).wlog = s.wlog := rfl
@[simp] theorem setChan_poison (s : State) (c : Nat) (x : Chan) : (setChan s c x).poison = s.poison := rfl
@[simp] theorem setChan_hidden (s : State) (c : Nat) (x : Chan) : (setChan s c x).hidden = s.hidden := rfl
@[simp] theorem setChan_part (s : State) (c : Nat) (x : Chan) : (setChan s c x).part = s.part := rfl
@[simp] theorem setChan_strands (s : State) (c : Nat) (x : Chan) : (setChan s c x).strands = s.strands := rfl
@[simp] theorem setChan_regions (s : State) (c : Nat) (x : Chan) : (setChan s c x).regions = s.regions := rfl
@[simp] theorem setChan_tiles (s : State) (c : Nat) (x : Chan) : (setChan s c x).tiles = s.tiles := rfl
@[simp] theorem setChan_teams (s : State) (c : Nat) (x : Chan) : (setChan s c x).teams = s.teams := rfl
@[simp] theorem setChan_ost (s : State) (c : Nat) (x : Chan) : (setChan s c x).ost = s.ost := rfl
@[simp] theorem setChan_saves (s : State) (c : Nat) (x : Chan) : (setChan s c x).saves = s.saves := rfl
@[simp] theorem setChan_teth (s : State) (c : Nat) (x : Chan) : (setChan s c x).teth = s.teth := rfl
@[simp] theorem setChan_trans (s : State) (c : Nat) (x : Chan) : (setChan s c x).trans = s.trans := rfl
@[simp] theorem setChan_trees (s : State) (c : Nat) (x : Chan) : (setChan s c x).trees = s.trees := rfl
@[simp] theorem setChan_fab (s : State) (c : Nat) (x : Chan) : (setChan s c x).fab = s.fab := rfl
@[simp] theorem setChan_host (s : State) (c : Nat) (x : Chan) : (setChan s c x).host = s.host := rfl
@[simp] theorem setChan_sec (s : State) (c : Nat) (x : Chan) : (setChan s c x).sec = s.sec := rfl
@[simp] theorem setChan_power (s : State) (c : Nat) (x : Chan) : (setChan s c x).power = s.power := rfl
@[simp] theorem setChan_cur (s : State) (c : Nat) (x : Chan) : (setChan s c x).cur = s.cur := rfl
@[simp] theorem setChan_schedule (s : State) (c : Nat) (x : Chan) : (setChan s c x).schedule = s.schedule := rfl
@[simp] theorem setChan_free (s : State) (c : Nat) (x : Chan) : (setChan s c x).free = s.free := rfl

@[simp] theorem setIPort_clock (s : State) (p : Nat) (x : IPort) : (setIPort s p x).clock = s.clock := rfl
@[simp] theorem setIPort_mem (s : State) (p : Nat) (x : IPort) : (setIPort s p x).mem = s.mem := rfl
@[simp] theorem setIPort_wlog (s : State) (p : Nat) (x : IPort) : (setIPort s p x).wlog = s.wlog := rfl
@[simp] theorem setIPort_poison (s : State) (p : Nat) (x : IPort) : (setIPort s p x).poison = s.poison := rfl
@[simp] theorem setIPort_hidden (s : State) (p : Nat) (x : IPort) : (setIPort s p x).hidden = s.hidden := rfl
@[simp] theorem setIPort_part (s : State) (p : Nat) (x : IPort) : (setIPort s p x).part = s.part := rfl
@[simp] theorem setIPort_strands (s : State) (p : Nat) (x : IPort) : (setIPort s p x).strands = s.strands := rfl
@[simp] theorem setIPort_regions (s : State) (p : Nat) (x : IPort) : (setIPort s p x).regions = s.regions := rfl
@[simp] theorem setIPort_tiles (s : State) (p : Nat) (x : IPort) : (setIPort s p x).tiles = s.tiles := rfl
@[simp] theorem setIPort_chans (s : State) (p : Nat) (x : IPort) : (setIPort s p x).chans = s.chans := rfl
@[simp] theorem setIPort_teams (s : State) (p : Nat) (x : IPort) : (setIPort s p x).teams = s.teams := rfl
@[simp] theorem setIPort_ost (s : State) (p : Nat) (x : IPort) : (setIPort s p x).ost = s.ost := rfl
@[simp] theorem setIPort_saves (s : State) (p : Nat) (x : IPort) : (setIPort s p x).saves = s.saves := rfl
@[simp] theorem setIPort_teth (s : State) (p : Nat) (x : IPort) : (setIPort s p x).teth = s.teth := rfl
@[simp] theorem setIPort_trans (s : State) (p : Nat) (x : IPort) : (setIPort s p x).trans = s.trans := rfl
@[simp] theorem setIPort_trees (s : State) (p : Nat) (x : IPort) : (setIPort s p x).trees = s.trees := rfl
@[simp] theorem setIPort_fab (s : State) (p : Nat) (x : IPort) : (setIPort s p x).fab = s.fab := rfl
@[simp] theorem setIPort_sec (s : State) (p : Nat) (x : IPort) : (setIPort s p x).sec = s.sec := rfl
@[simp] theorem setIPort_power (s : State) (p : Nat) (x : IPort) : (setIPort s p x).power = s.power := rfl
@[simp] theorem setIPort_cur (s : State) (p : Nat) (x : IPort) : (setIPort s p x).cur = s.cur := rfl
@[simp] theorem setIPort_schedule (s : State) (p : Nat) (x : IPort) : (setIPort s p x).schedule = s.schedule := rfl
@[simp] theorem setIPort_free (s : State) (p : Nat) (x : IPort) : (setIPort s p x).free = s.free := rfl

@[simp] theorem updDie_clock (s : State) (d : Nat) (f : Die → Die) : (updDie s d f).clock = s.clock := rfl
@[simp] theorem updDie_mem (s : State) (d : Nat) (f : Die → Die) : (updDie s d f).mem = s.mem := rfl
@[simp] theorem updDie_wlog (s : State) (d : Nat) (f : Die → Die) : (updDie s d f).wlog = s.wlog := rfl
@[simp] theorem updDie_poison (s : State) (d : Nat) (f : Die → Die) : (updDie s d f).poison = s.poison := rfl
@[simp] theorem updDie_hidden (s : State) (d : Nat) (f : Die → Die) : (updDie s d f).hidden = s.hidden := rfl
@[simp] theorem updDie_part (s : State) (d : Nat) (f : Die → Die) : (updDie s d f).part = s.part := rfl
@[simp] theorem updDie_strands (s : State) (d : Nat) (f : Die → Die) : (updDie s d f).strands = s.strands := rfl
@[simp] theorem updDie_regions (s : State) (d : Nat) (f : Die → Die) : (updDie s d f).regions = s.regions := rfl
@[simp] theorem updDie_tiles (s : State) (d : Nat) (f : Die → Die) : (updDie s d f).tiles = s.tiles := rfl
@[simp] theorem updDie_chans (s : State) (d : Nat) (f : Die → Die) : (updDie s d f).chans = s.chans := rfl
@[simp] theorem updDie_teams (s : State) (d : Nat) (f : Die → Die) : (updDie s d f).teams = s.teams := rfl
@[simp] theorem updDie_ost (s : State) (d : Nat) (f : Die → Die) : (updDie s d f).ost = s.ost := rfl
@[simp] theorem updDie_saves (s : State) (d : Nat) (f : Die → Die) : (updDie s d f).saves = s.saves := rfl
@[simp] theorem updDie_teth (s : State) (d : Nat) (f : Die → Die) : (updDie s d f).teth = s.teth := rfl
@[simp] theorem updDie_trans (s : State) (d : Nat) (f : Die → Die) : (updDie s d f).trans = s.trans := rfl
@[simp] theorem updDie_trees (s : State) (d : Nat) (f : Die → Die) : (updDie s d f).trees = s.trees := rfl
@[simp] theorem updDie_fab (s : State) (d : Nat) (f : Die → Die) : (updDie s d f).fab = s.fab := rfl
@[simp] theorem updDie_host (s : State) (d : Nat) (f : Die → Die) : (updDie s d f).host = s.host := rfl
@[simp] theorem updDie_sec (s : State) (d : Nat) (f : Die → Die) : (updDie s d f).sec = s.sec := rfl
@[simp] theorem updDie_cur (s : State) (d : Nat) (f : Die → Die) : (updDie s d f).cur = s.cur := rfl
@[simp] theorem updDie_schedule (s : State) (d : Nat) (f : Die → Die) : (updDie s d f).schedule = s.schedule := rfl
@[simp] theorem updDie_free (s : State) (d : Nat) (f : Die → Die) : (updDie s d f).free = s.free := rfl

@[simp] theorem emit_clock (s : State) (o : Out) : (emit s o).clock = s.clock := rfl
@[simp] theorem emit_mem (s : State) (o : Out) : (emit s o).mem = s.mem := rfl
@[simp] theorem emit_wlog (s : State) (o : Out) : (emit s o).wlog = s.wlog := rfl
@[simp] theorem emit_poison (s : State) (o : Out) : (emit s o).poison = s.poison := rfl
@[simp] theorem emit_hidden (s : State) (o : Out) : (emit s o).hidden = s.hidden := rfl
@[simp] theorem emit_part (s : State) (o : Out) : (emit s o).part = s.part := rfl
@[simp] theorem emit_strands (s : State) (o : Out) : (emit s o).strands = s.strands := rfl
@[simp] theorem emit_regions (s : State) (o : Out) : (emit s o).regions = s.regions := rfl
@[simp] theorem emit_tiles (s : State) (o : Out) : (emit s o).tiles = s.tiles := rfl
@[simp] theorem emit_chans (s : State) (o : Out) : (emit s o).chans = s.chans := rfl
@[simp] theorem emit_teams (s : State) (o : Out) : (emit s o).teams = s.teams := rfl
@[simp] theorem emit_ost (s : State) (o : Out) : (emit s o).ost = s.ost := rfl
@[simp] theorem emit_saves (s : State) (o : Out) : (emit s o).saves = s.saves := rfl
@[simp] theorem emit_teth (s : State) (o : Out) : (emit s o).teth = s.teth := rfl
@[simp] theorem emit_trans (s : State) (o : Out) : (emit s o).trans = s.trans := rfl
@[simp] theorem emit_trees (s : State) (o : Out) : (emit s o).trees = s.trees := rfl
@[simp] theorem emit_fab (s : State) (o : Out) : (emit s o).fab = s.fab := rfl
@[simp] theorem emit_sec (s : State) (o : Out) : (emit s o).sec = s.sec := rfl
@[simp] theorem emit_power (s : State) (o : Out) : (emit s o).power = s.power := rfl
@[simp] theorem emit_cur (s : State) (o : Out) : (emit s o).cur = s.cur := rfl
@[simp] theorem emit_schedule (s : State) (o : Out) : (emit s o).schedule = s.schedule := rfl
@[simp] theorem emit_free (s : State) (o : Out) : (emit s o).free = s.free := rfl

@[simp] theorem writeBytes_clock (s : State) (k : Nat) (bs : List Byte) : (writeBytes s k bs).clock = s.clock := rfl
@[simp] theorem writeBytes_mem (s : State) (k : Nat) (bs : List Byte) : (writeBytes s k bs).mem = s.mem := rfl
@[simp] theorem writeBytes_part (s : State) (k : Nat) (bs : List Byte) : (writeBytes s k bs).part = s.part := rfl
@[simp] theorem writeBytes_strands (s : State) (k : Nat) (bs : List Byte) : (writeBytes s k bs).strands = s.strands := rfl
@[simp] theorem writeBytes_regions (s : State) (k : Nat) (bs : List Byte) : (writeBytes s k bs).regions = s.regions := rfl
@[simp] theorem writeBytes_tiles (s : State) (k : Nat) (bs : List Byte) : (writeBytes s k bs).tiles = s.tiles := rfl
@[simp] theorem writeBytes_chans (s : State) (k : Nat) (bs : List Byte) : (writeBytes s k bs).chans = s.chans := rfl
@[simp] theorem writeBytes_teams (s : State) (k : Nat) (bs : List Byte) : (writeBytes s k bs).teams = s.teams := rfl
@[simp] theorem writeBytes_ost (s : State) (k : Nat) (bs : List Byte) : (writeBytes s k bs).ost = s.ost := rfl
@[simp] theorem writeBytes_saves (s : State) (k : Nat) (bs : List Byte) : (writeBytes s k bs).saves = s.saves := rfl
@[simp] theorem writeBytes_teth (s : State) (k : Nat) (bs : List Byte) : (writeBytes s k bs).teth = s.teth := rfl
@[simp] theorem writeBytes_trans (s : State) (k : Nat) (bs : List Byte) : (writeBytes s k bs).trans = s.trans := rfl
@[simp] theorem writeBytes_trees (s : State) (k : Nat) (bs : List Byte) : (writeBytes s k bs).trees = s.trees := rfl
@[simp] theorem writeBytes_fab (s : State) (k : Nat) (bs : List Byte) : (writeBytes s k bs).fab = s.fab := rfl
@[simp] theorem writeBytes_host (s : State) (k : Nat) (bs : List Byte) : (writeBytes s k bs).host = s.host := rfl
@[simp] theorem writeBytes_sec (s : State) (k : Nat) (bs : List Byte) : (writeBytes s k bs).sec = s.sec := rfl
@[simp] theorem writeBytes_power (s : State) (k : Nat) (bs : List Byte) : (writeBytes s k bs).power = s.power := rfl
@[simp] theorem writeBytes_cur (s : State) (k : Nat) (bs : List Byte) : (writeBytes s k bs).cur = s.cur := rfl
@[simp] theorem writeBytes_schedule (s : State) (k : Nat) (bs : List Byte) : (writeBytes s k bs).schedule = s.schedule := rfl
@[simp] theorem writeBytes_free (s : State) (k : Nat) (bs : List Byte) : (writeBytes s k bs).free = s.free := rfl

@[simp] theorem updFab_clock (s : State) (f : Fabric → Fabric) : (updFab s f).clock = s.clock := rfl
@[simp] theorem updFab_mem (s : State) (f : Fabric → Fabric) : (updFab s f).mem = s.mem := rfl
@[simp] theorem updFab_wlog (s : State) (f : Fabric → Fabric) : (updFab s f).wlog = s.wlog := rfl
@[simp] theorem updFab_poison (s : State) (f : Fabric → Fabric) : (updFab s f).poison = s.poison := rfl
@[simp] theorem updFab_hidden (s : State) (f : Fabric → Fabric) : (updFab s f).hidden = s.hidden := rfl
@[simp] theorem updFab_part (s : State) (f : Fabric → Fabric) : (updFab s f).part = s.part := rfl
@[simp] theorem updFab_strands (s : State) (f : Fabric → Fabric) : (updFab s f).strands = s.strands := rfl
@[simp] theorem updFab_regions (s : State) (f : Fabric → Fabric) : (updFab s f).regions = s.regions := rfl
@[simp] theorem updFab_tiles (s : State) (f : Fabric → Fabric) : (updFab s f).tiles = s.tiles := rfl
@[simp] theorem updFab_chans (s : State) (f : Fabric → Fabric) : (updFab s f).chans = s.chans := rfl
@[simp] theorem updFab_teams (s : State) (f : Fabric → Fabric) : (updFab s f).teams = s.teams := rfl
@[simp] theorem updFab_ost (s : State) (f : Fabric → Fabric) : (updFab s f).ost = s.ost := rfl
@[simp] theorem updFab_saves (s : State) (f : Fabric → Fabric) : (updFab s f).saves = s.saves := rfl
@[simp] theorem updFab_teth (s : State) (f : Fabric → Fabric) : (updFab s f).teth = s.teth := rfl
@[simp] theorem updFab_trans (s : State) (f : Fabric → Fabric) : (updFab s f).trans = s.trans := rfl
@[simp] theorem updFab_trees (s : State) (f : Fabric → Fabric) : (updFab s f).trees = s.trees := rfl
@[simp] theorem updFab_host (s : State) (f : Fabric → Fabric) : (updFab s f).host = s.host := rfl
@[simp] theorem updFab_sec (s : State) (f : Fabric → Fabric) : (updFab s f).sec = s.sec := rfl
@[simp] theorem updFab_power (s : State) (f : Fabric → Fabric) : (updFab s f).power = s.power := rfl
@[simp] theorem updFab_cur (s : State) (f : Fabric → Fabric) : (updFab s f).cur = s.cur := rfl
@[simp] theorem updFab_schedule (s : State) (f : Fabric → Fabric) : (updFab s f).schedule = s.schedule := rfl
@[simp] theorem updFab_free (s : State) (f : Fabric → Fabric) : (updFab s f).free = s.free := rfl

@[simp] theorem setLink_clock (s : State) (n : Nat) (l : Link) : (setLink s n l).clock = s.clock := rfl
@[simp] theorem setLink_mem (s : State) (n : Nat) (l : Link) : (setLink s n l).mem = s.mem := rfl
@[simp] theorem setLink_wlog (s : State) (n : Nat) (l : Link) : (setLink s n l).wlog = s.wlog := rfl
@[simp] theorem setLink_poison (s : State) (n : Nat) (l : Link) : (setLink s n l).poison = s.poison := rfl
@[simp] theorem setLink_hidden (s : State) (n : Nat) (l : Link) : (setLink s n l).hidden = s.hidden := rfl
@[simp] theorem setLink_part (s : State) (n : Nat) (l : Link) : (setLink s n l).part = s.part := rfl
@[simp] theorem setLink_strands (s : State) (n : Nat) (l : Link) : (setLink s n l).strands = s.strands := rfl
@[simp] theorem setLink_regions (s : State) (n : Nat) (l : Link) : (setLink s n l).regions = s.regions := rfl
@[simp] theorem setLink_tiles (s : State) (n : Nat) (l : Link) : (setLink s n l).tiles = s.tiles := rfl
@[simp] theorem setLink_chans (s : State) (n : Nat) (l : Link) : (setLink s n l).chans = s.chans := rfl
@[simp] theorem setLink_teams (s : State) (n : Nat) (l : Link) : (setLink s n l).teams = s.teams := rfl
@[simp] theorem setLink_ost (s : State) (n : Nat) (l : Link) : (setLink s n l).ost = s.ost := rfl
@[simp] theorem setLink_saves (s : State) (n : Nat) (l : Link) : (setLink s n l).saves = s.saves := rfl
@[simp] theorem setLink_teth (s : State) (n : Nat) (l : Link) : (setLink s n l).teth = s.teth := rfl
@[simp] theorem setLink_trans (s : State) (n : Nat) (l : Link) : (setLink s n l).trans = s.trans := rfl
@[simp] theorem setLink_trees (s : State) (n : Nat) (l : Link) : (setLink s n l).trees = s.trees := rfl
@[simp] theorem setLink_host (s : State) (n : Nat) (l : Link) : (setLink s n l).host = s.host := rfl
@[simp] theorem setLink_sec (s : State) (n : Nat) (l : Link) : (setLink s n l).sec = s.sec := rfl
@[simp] theorem setLink_power (s : State) (n : Nat) (l : Link) : (setLink s n l).power = s.power := rfl
@[simp] theorem setLink_cur (s : State) (n : Nat) (l : Link) : (setLink s n l).cur = s.cur := rfl
@[simp] theorem setLink_schedule (s : State) (n : Nat) (l : Link) : (setLink s n l).schedule = s.schedule := rfl
@[simp] theorem setLink_free (s : State) (n : Nat) (l : Link) : (setLink s n l).free = s.free := rfl

@[simp] theorem setHostPort_clock (s : State) (b : Bool) (h : HostPort) : (setHostPort s b h).clock = s.clock := by unfold setHostPort; split <;> rfl
@[simp] theorem setHostPort_mem (s : State) (b : Bool) (h : HostPort) : (setHostPort s b h).mem = s.mem := by unfold setHostPort; split <;> rfl
@[simp] theorem setHostPort_wlog (s : State) (b : Bool) (h : HostPort) : (setHostPort s b h).wlog = s.wlog := by unfold setHostPort; split <;> rfl
@[simp] theorem setHostPort_poison (s : State) (b : Bool) (h : HostPort) : (setHostPort s b h).poison = s.poison := by unfold setHostPort; split <;> rfl
@[simp] theorem setHostPort_hidden (s : State) (b : Bool) (h : HostPort) : (setHostPort s b h).hidden = s.hidden := by unfold setHostPort; split <;> rfl
@[simp] theorem setHostPort_part (s : State) (b : Bool) (h : HostPort) : (setHostPort s b h).part = s.part := by unfold setHostPort; split <;> rfl
@[simp] theorem setHostPort_strands (s : State) (b : Bool) (h : HostPort) : (setHostPort s b h).strands = s.strands := by unfold setHostPort; split <;> rfl
@[simp] theorem setHostPort_regions (s : State) (b : Bool) (h : HostPort) : (setHostPort s b h).regions = s.regions := by unfold setHostPort; split <;> rfl
@[simp] theorem setHostPort_tiles (s : State) (b : Bool) (h : HostPort) : (setHostPort s b h).tiles = s.tiles := by unfold setHostPort; split <;> rfl
@[simp] theorem setHostPort_chans (s : State) (b : Bool) (h : HostPort) : (setHostPort s b h).chans = s.chans := by unfold setHostPort; split <;> rfl
@[simp] theorem setHostPort_teams (s : State) (b : Bool) (h : HostPort) : (setHostPort s b h).teams = s.teams := by unfold setHostPort; split <;> rfl
@[simp] theorem setHostPort_ost (s : State) (b : Bool) (h : HostPort) : (setHostPort s b h).ost = s.ost := by unfold setHostPort; split <;> rfl
@[simp] theorem setHostPort_saves (s : State) (b : Bool) (h : HostPort) : (setHostPort s b h).saves = s.saves := by unfold setHostPort; split <;> rfl
@[simp] theorem setHostPort_teth (s : State) (b : Bool) (h : HostPort) : (setHostPort s b h).teth = s.teth := by unfold setHostPort; split <;> rfl
@[simp] theorem setHostPort_trans (s : State) (b : Bool) (h : HostPort) : (setHostPort s b h).trans = s.trans := by unfold setHostPort; split <;> rfl
@[simp] theorem setHostPort_trees (s : State) (b : Bool) (h : HostPort) : (setHostPort s b h).trees = s.trees := by unfold setHostPort; split <;> rfl
@[simp] theorem setHostPort_fab (s : State) (b : Bool) (h : HostPort) : (setHostPort s b h).fab = s.fab := by unfold setHostPort; split <;> rfl
@[simp] theorem setHostPort_sec (s : State) (b : Bool) (h : HostPort) : (setHostPort s b h).sec = s.sec := by unfold setHostPort; split <;> rfl
@[simp] theorem setHostPort_power (s : State) (b : Bool) (h : HostPort) : (setHostPort s b h).power = s.power := by unfold setHostPort; split <;> rfl
@[simp] theorem setHostPort_cur (s : State) (b : Bool) (h : HostPort) : (setHostPort s b h).cur = s.cur := by unfold setHostPort; split <;> rfl
@[simp] theorem setHostPort_schedule (s : State) (b : Bool) (h : HostPort) : (setHostPort s b h).schedule = s.schedule := by unfold setHostPort; split <;> rfl
@[simp] theorem setHostPort_free (s : State) (b : Bool) (h : HostPort) : (setHostPort s b h).free = s.free := by unfold setHostPort; split <;> rfl

@[simp] theorem updTeam_clock (s : State) (id : Nat) (f : Team → Team) : (updTeam s id f).clock = s.clock := by unfold updTeam; split <;> rfl
@[simp] theorem updTeam_mem (s : State) (id : Nat) (f : Team → Team) : (updTeam s id f).mem = s.mem := by unfold updTeam; split <;> rfl
@[simp] theorem updTeam_wlog (s : State) (id : Nat) (f : Team → Team) : (updTeam s id f).wlog = s.wlog := by unfold updTeam; split <;> rfl
@[simp] theorem updTeam_poison (s : State) (id : Nat) (f : Team → Team) : (updTeam s id f).poison = s.poison := by unfold updTeam; split <;> rfl
@[simp] theorem updTeam_hidden (s : State) (id : Nat) (f : Team → Team) : (updTeam s id f).hidden = s.hidden := by unfold updTeam; split <;> rfl
@[simp] theorem updTeam_part (s : State) (id : Nat) (f : Team → Team) : (updTeam s id f).part = s.part := by unfold updTeam; split <;> rfl
@[simp] theorem updTeam_strands (s : State) (id : Nat) (f : Team → Team) : (updTeam s id f).strands = s.strands := by unfold updTeam; split <;> rfl
@[simp] theorem updTeam_regions (s : State) (id : Nat) (f : Team → Team) : (updTeam s id f).regions = s.regions := by unfold updTeam; split <;> rfl
@[simp] theorem updTeam_tiles (s : State) (id : Nat) (f : Team → Team) : (updTeam s id f).tiles = s.tiles := by unfold updTeam; split <;> rfl
@[simp] theorem updTeam_chans (s : State) (id : Nat) (f : Team → Team) : (updTeam s id f).chans = s.chans := by unfold updTeam; split <;> rfl
@[simp] theorem updTeam_ost (s : State) (id : Nat) (f : Team → Team) : (updTeam s id f).ost = s.ost := by unfold updTeam; split <;> rfl
@[simp] theorem updTeam_saves (s : State) (id : Nat) (f : Team → Team) : (updTeam s id f).saves = s.saves := by unfold updTeam; split <;> rfl
@[simp] theorem updTeam_teth (s : State) (id : Nat) (f : Team → Team) : (updTeam s id f).teth = s.teth := by unfold updTeam; split <;> rfl
@[simp] theorem updTeam_trans (s : State) (id : Nat) (f : Team → Team) : (updTeam s id f).trans = s.trans := by unfold updTeam; split <;> rfl
@[simp] theorem updTeam_trees (s : State) (id : Nat) (f : Team → Team) : (updTeam s id f).trees = s.trees := by unfold updTeam; split <;> rfl
@[simp] theorem updTeam_fab (s : State) (id : Nat) (f : Team → Team) : (updTeam s id f).fab = s.fab := by unfold updTeam; split <;> rfl
@[simp] theorem updTeam_host (s : State) (id : Nat) (f : Team → Team) : (updTeam s id f).host = s.host := by unfold updTeam; split <;> rfl
@[simp] theorem updTeam_sec (s : State) (id : Nat) (f : Team → Team) : (updTeam s id f).sec = s.sec := by unfold updTeam; split <;> rfl
@[simp] theorem updTeam_power (s : State) (id : Nat) (f : Team → Team) : (updTeam s id f).power = s.power := by unfold updTeam; split <;> rfl
@[simp] theorem updTeam_cur (s : State) (id : Nat) (f : Team → Team) : (updTeam s id f).cur = s.cur := by unfold updTeam; split <;> rfl
@[simp] theorem updTeam_schedule (s : State) (id : Nat) (f : Team → Team) : (updTeam s id f).schedule = s.schedule := by unfold updTeam; split <;> rfl
@[simp] theorem updTeam_free (s : State) (id : Nat) (f : Team → Team) : (updTeam s id f).free = s.free := by unfold updTeam; split <;> rfl

@[simp] theorem getStrand_setStrand (s : State) (i j : Nat) (x : Strand) :
    getStrand (setStrand s i x) j = if i = j then x else getStrand s j := by simp [getStrand, setStrand]
@[simp] theorem getStrand_updStrand (s : State) (i j : Nat) (f : Strand → Strand) :
    getStrand (updStrand s i f) j = if i = j then f (getStrand s i) else getStrand s j := by simp [updStrand]
@[simp] theorem getRegion_setRegion (s : State) (r q : Nat) (x : Region) :
    getRegion (setRegion s r x) q = if r = q then x else getRegion s q := by simp [getRegion, setRegion]
@[simp] theorem getRegion_updRegion (s : State) (r q : Nat) (f : Region → Region) :
    getRegion (updRegion s r f) q = if r = q then f (getRegion s r) else getRegion s q := by simp [updRegion]
@[simp] theorem getTeam_setTeam (s : State) (i j : Nat) (x : Team) :
    getTeam (setTeam s i x) j = if i = j then x else getTeam s j := by simp [getTeam, setTeam]
@[simp] theorem getChan_setChan (s : State) (c e : Nat) (x : Chan) :
    getChan (setChan s c x) e = if c = e then x else getChan s e := by simp [getChan, setChan]
@[simp] theorem getIPort_setIPort (s : State) (p q : Nat) (x : IPort) :
    getIPort (setIPort s p x) q = if p = q then x else getIPort s q := by simp [getIPort, setIPort]
@[simp] theorem getDie_updDie (s : State) (d e : Nat) (f : Die → Die) :
    getDie (updDie s d f) e = if d = e then f (getDie s d) else getDie s e := by simp [getDie, updDie]
@[simp] theorem getTile_setTile (s : State) (r k : Nat) (x : Tile) : getTile (setTile s r k x) r k = x := by simp [getTile, setTile]
@[simp] theorem getTile_updTile (s : State) (r k : Nat) (f : Tile → Tile) : getTile (updTile s r k f) r k = f (getTile s r k) := by
  simp [updTile]

@[simp] theorem getStrand_setRegion (s : State) (r i : Nat) (x : Region) : getStrand (setRegion s r x) i = getStrand s i := rfl
@[simp] theorem getStrand_updRegion (s : State) (r i : Nat) (f : Region → Region) : getStrand (updRegion s r f) i = getStrand s i := rfl
@[simp] theorem getStrand_setTile (s : State) (r k i : Nat) (x : Tile) : getStrand (setTile s r k x) i = getStrand s i := rfl
@[simp] theorem getStrand_updTile (s : State) (r k i : Nat) (f : Tile → Tile) : getStrand (updTile s r k f) i = getStrand s i := rfl
@[simp] theorem getStrand_emit (s : State) (o : Out) (i : Nat) : getStrand (emit s o) i = getStrand s i := rfl
@[simp] theorem getStrand_updDie (s : State) (d i : Nat) (f : Die → Die) : getStrand (updDie s d f) i = getStrand s i := rfl
@[simp] theorem getStrand_writeBytes (s : State) (k i : Nat) (bs : List Byte) : getStrand (writeBytes s k bs) i = getStrand s i := rfl
@[simp] theorem getStrand_updTeam (s : State) (id i : Nat) (f : Team → Team) : getStrand (updTeam s id f) i = getStrand s i := by
  unfold getStrand; rw [updTeam_strands]
@[simp] theorem getRegion_setStrand (s : State) (i r : Nat) (x : Strand) : getRegion (setStrand s i x) r = getRegion s r := rfl
@[simp] theorem getRegion_updStrand (s : State) (i r : Nat) (f : Strand → Strand) : getRegion (updStrand s i f) r = getRegion s r := rfl
@[simp] theorem me_setStrand (s : State) (i : Nat) (x : Strand) : me (setStrand s i x) = me s := rfl
@[simp] theorem me_updStrand (s : State) (i : Nat) (f : Strand → Strand) : me (updStrand s i f) = me s := rfl
@[simp] theorem me_updSelf (s : State) (f : Strand → Strand) : me (updSelf s f) = me s := rfl
@[simp] theorem me_setG (s : State) (d : Reg) (v : Word) : me (setG s d v) = me s := by unfold setG; split <;> rfl
@[simp] theorem me_updRegion (s : State) (r : Nat) (f : Region → Region) : me (updRegion s r f) = me s := rfl
@[simp] theorem self_updSelf (s : State) (f : Strand → Strand) : self (updSelf s f) = f (self s) := by simp [self, updSelf]
theorem setG_fresh (s : State) (d : Reg) (v : Word) (h : s.cur.cap = none) : setG s d v = updSelf s (fun st => st.setReg d v) := by
  simp [setG, landing, h]
@[simp] theorem self_setG (s : State) (d : Reg) (v : Word) (h : s.cur.cap = none) : self (setG s d v) = (self s).setReg d v := by
  simp [setG_fresh s d v h]
theorem getStrand_updSelf (s : State) (i : Nat) (f : Strand → Strand) :
    getStrand (updSelf s f) i = if me s = i then f (self s) else getStrand s i := by simp [updSelf, self]

theorem Strand.setReg_ne (st : Strand) (d : Reg) (v : Word) (h : d ≠ 0) :
    st.setReg d v = { st with regs := st.regs.set d.toNat v d.isLt, oplog := ((d, v) :: st.oplog).take 16
                              badpar := st.badpar.filter (fun x => x.1 != d) } := by
  unfold Strand.setReg; rw [if_neg h]

@[simp] theorem Strand.reg_setReg (st : Strand) (d r : Reg) (v : Word) :
    (st.setReg d v).reg r = if r = d ∧ d ≠ 0 then v else st.reg r := by
  by_cases hd : d = 0
  · subst hd; simp [Strand.setReg]
  · rw [Strand.setReg_ne st d v hd]
    by_cases hr : r = 0
    · subst hr
      have h : ¬((0 : Reg) = d ∧ d ≠ 0) := fun x => hd x.1.symm
      rw [if_neg h]; rfl
    · by_cases h : r = d
      · subst h
        rw [if_pos ⟨rfl, hd⟩]
        unfold Strand.reg; rw [if_neg hd]; simp
      · have h' : d.toNat ≠ r.toNat := fun e => h (BitVec.eq_of_toNat_eq e.symm)
        have h2 : ¬(r = d ∧ d ≠ 0) := fun x => h x.1
        rw [if_neg h2]
        unfold Strand.reg; rw [if_neg hr, if_neg hr]
        simp [h']

@[simp] theorem Strand.setReg_pc (st : Strand) (d : Reg) (v : Word) : (st.setReg d v).pc = st.pc := by unfold Strand.setReg; split <;> rfl
@[simp] theorem Strand.setReg_run (st : Strand) (d : Reg) (v : Word) : (st.setReg d v).run = st.run := by unfold Strand.setReg; split <;> rfl
@[simp] theorem Strand.setReg_hold (st : Strand) (d : Reg) (v : Word) : (st.setReg d v).hold = st.hold := by unfold Strand.setReg; split <;> rfl
@[simp] theorem Strand.setReg_wait (st : Strand) (d : Reg) (v : Word) : (st.setReg d v).wait = st.wait := by unfold Strand.setReg; split <;> rfl
@[simp] theorem Strand.setReg_spr (st : Strand) (d : Reg) (v : Word) : (st.setReg d v).spr = st.spr := by unfold Strand.setReg; split <;> rfl
@[simp] theorem Strand.setReg_traps (st : Strand) (d : Reg) (v : Word) : (st.setReg d v).traps = st.traps := by unfold Strand.setReg; split <;> rfl
@[simp] theorem Strand.setReg_view (st : Strand) (d : Reg) (v : Word) : (st.setReg d v).view = st.view := by unfold Strand.setReg; split <;> rfl
@[simp] theorem Strand.setReg_sent (st : Strand) (d : Reg) (v : Word) : (st.setReg d v).sent = st.sent := by unfold Strand.setReg; split <;> rfl
@[simp] theorem Strand.setReg_cmdlog (st : Strand) (d : Reg) (v : Word) : (st.setReg d v).cmdlog = st.cmdlog := by unfold Strand.setReg; split <;> rfl
@[simp] theorem Strand.setReg_c0 (st : Strand) (d : Reg) (v : Word) : (st.setReg d v).c0 = st.c0 := by unfold Strand.setReg; split <;> rfl
@[simp] theorem Strand.setReg_epochs (st : Strand) (d : Reg) (v : Word) : (st.setReg d v).epochs = st.epochs := by unfold Strand.setReg; split <;> rfl
@[simp] theorem Strand.setReg_task (st : Strand) (d : Reg) (v : Word) : (st.setReg d v).task = st.task := by unfold Strand.setReg; split <;> rfl
@[simp] theorem Strand.setReg_inTask (st : Strand) (d : Reg) (v : Word) : (st.setReg d v).inTask = st.inTask := by unfold Strand.setReg; split <;> rfl
@[simp] theorem Strand.setReg_wbuf (st : Strand) (d : Reg) (v : Word) : (st.setReg d v).wbuf = st.wbuf := by unfold Strand.setReg; split <;> rfl
@[simp] theorem Strand.setReg_ended (st : Strand) (d : Reg) (v : Word) : (st.setReg d v).ended = st.ended := by unfold Strand.setReg; split <;> rfl
@[simp] theorem Strand.setReg_yielded (st : Strand) (d : Reg) (v : Word) : (st.setReg d v).yielded = st.yielded := by unfold Strand.setReg; split <;> rfl
@[simp] theorem Strand.setReg_walkBad (st : Strand) (d : Reg) (v : Word) : (st.setReg d v).walkBad = st.walkBad := by unfold Strand.setReg; split <;> rfl

end Machine
end Sys2Proof
end

