-- ==== Sys2Proof/Laws/Mem.lean ====
section
/-! SUPPORT. Memory keeps its canonical form, and a read after a write gives what was written. -/

namespace Sys2Proof.Machine

/-- Every listed address lies above a bound. -/
def AllAbove (b : Nat) (m : List Host.Cell) : Prop := ∀ c ∈ m, b < c.1

theorem wf_cons (c : Host.Cell) (t : List Host.Cell) :
    Memory.wf (c :: t) = true ↔ c.2 ≠ Memory.blank ∧ AllAbove c.1 t ∧ Memory.wf t = true := by
  induction t generalizing c with
  | nil => simp [Memory.wf, AllAbove]
  | cons d u ih =>
    constructor
    · intro h
      simp only [Memory.wf, Bool.and_eq_true, bne_iff_ne, decide_eq_true_eq] at h
      refine ⟨h.1.1, ?_, h.2⟩
      intro e he
      rcases List.mem_cons.mp he with rfl | he'
      · exact h.1.2
      · exact Nat.lt_trans h.1.2 (((ih d).mp h.2).2.1 e he')
    · rintro ⟨h1, h2, h3⟩
      simp only [Memory.wf, Bool.and_eq_true, bne_iff_ne, decide_eq_true_eq]
      exact ⟨⟨h1, h2 d (by simp)⟩, h3⟩

theorem memRead_above (m : List Host.Cell) (a b : Nat) (h : AllAbove b m) (hab : a ≤ b) : memRead m a = Memory.blank := by
  cases m with
  | nil => rfl
  | cons c t =>
    have hc : b < c.1 := h c (by simp)
    simp [memRead, show c.1 ≠ a by omega, show a < c.1 by omega]

theorem memWrite_above (m : List Host.Cell) (a bound : Nat) (v : Byte) (hm : AllAbove bound m) (ha : bound < a) :
    AllAbove bound (memWrite m a v) := by
  induction m with
  | nil =>
    intro c hc
    by_cases hv : v = Memory.blank
    · simp [memWrite, hv] at hc
    · simp [memWrite, hv] at hc; subst hc; exact ha
  | cons d t ih =>
    have hd : bound < d.1 := hm d (by simp)
    have ht : AllAbove bound t := fun c hc => hm c (by simp [hc])
    intro c hc
    unfold memWrite at hc
    split at hc
    · split at hc
      · exact hm c hc
      · rcases List.mem_cons.mp hc with rfl | h
        · exact ha
        · exact hm c h
    · split at hc
      · split at hc
        · exact ht c hc
        · rcases List.mem_cons.mp hc with rfl | h
          · exact ha
          · exact ht c h
      · rcases List.mem_cons.mp hc with rfl | h
        · exact hd
        · exact ih ht c h

/-- A write keeps the canonical form. -/
theorem memWrite_wf (m : List Host.Cell) (a : Nat) (v : Byte) (h : Memory.wf m = true) : Memory.wf (memWrite m a v) = true := by
  induction m with
  | nil =>
    by_cases hv : v = Memory.blank
    · simp [memWrite, hv, Memory.wf]
    · simp [memWrite, hv, Memory.wf]
  | cons d t ih =>
    obtain ⟨h1, h2, h3⟩ := (wf_cons d t).mp h
    unfold memWrite
    split
    · rename_i hlt
      split
      · exact h
      · rename_i hv
        refine (wf_cons _ _).mpr ⟨hv, ?_, h⟩
        intro c hc
        rcases List.mem_cons.mp hc with rfl | hc'
        · exact hlt
        · exact Nat.lt_trans hlt (h2 c hc')
    · split
      · rename_i heq
        split
        · exact h3
        · rename_i hv
          exact (wf_cons _ _).mpr ⟨hv, by rw [← heq]; exact h2, h3⟩
      · rename_i hge hne
        refine (wf_cons _ _).mpr ⟨h1, memWrite_above t a d.1 v h2 (by omega), ih h3⟩

/-- So does a whole log of writes. -/
theorem memCommit_wf (m log : List Host.Cell) (h : Memory.wf m = true) : Memory.wf (memCommit m log) = true := by
  induction log with
  | nil => exact h
  | cons w ws ih => exact memWrite_wf _ _ _ ih

/-- A read after a write. -/
theorem memRead_memWrite (m : List Host.Cell) (a b : Nat) (v : Byte) (h : Memory.wf m = true) :
    memRead (memWrite m a v) b = if a = b then v else memRead m b := by
  induction m with
  | nil =>
    by_cases hv : v = Memory.blank
    · subst hv; simp [memWrite, memRead]
    · by_cases hab : a = b
      · simp [memWrite, memRead, hv, hab]
      · simp [memWrite, memRead, hv, hab]
  | cons d t ih =>
    obtain ⟨-, h2, h3⟩ := (wf_cons d t).mp h
    unfold memWrite
    split
    · rename_i hlt
      split
      · rename_i hv
        by_cases hab : a = b
        · subst hab; simp [memRead, show d.1 ≠ a by omega, hlt, hv]
        · simp [hab]
      · by_cases hab : a = b
        · simp [memRead, hab]
        · by_cases hlb : a < b
          · simp [memRead, hab, show ¬b < a by omega]
          · simp [memRead, hab, show b < a by omega, show d.1 ≠ b by omega, show b < d.1 by omega]
    · split
      · rename_i heq
        split
        · rename_i hv
          by_cases hab : a = b
          · subst hab; rw [memRead_above t a d.1 h2 (by omega)]; simp [hv]
          · by_cases hlb : b < d.1
            · rw [memRead_above t b d.1 h2 (by omega)]
              simp [memRead, hab, show d.1 ≠ b by omega, hlb]
            · simp [memRead, hab, show d.1 ≠ b by omega, hlb]
        · by_cases hab : a = b
          · simp [memRead, hab]
          · simp [memRead, hab, heq]
      · rename_i hge hne
        by_cases hd : d.1 = b
        · have : a ≠ b := by omega
          simp [memRead, hd, this]
        · by_cases hlb : b < d.1
          · have : a ≠ b := by omega
            simp [memRead, hd, hlb, this]
          · simp [memRead, hd, hlb, ih h3]

/-- A log of writes is read newest first. -/
theorem memRead_memCommit (m log : List Host.Cell) (a : Nat) (h : Memory.wf m = true) :
    memRead (memCommit m log) a = (logFind log a).getD (memRead m a) := by
  induction log with
  | nil => rfl
  | cons w ws ih =>
    simp only [memCommit, memRead_memWrite _ _ _ _ (memCommit_wf m ws h), logFind]
    split <;> simp [*]

theorem logFind_logBytes (log : List Host.Cell) (key : Nat) (bs : List Byte) (a : Nat) :
    logFind (logBytes log key bs) a =
      if key ≤ a ∧ a < key + bs.length then some (bs.getD (a - key) 0) else logFind log a := by
  induction bs generalizing log key with
  | nil =>
    have : ¬(key ≤ a ∧ a < key + ([] : List Byte).length) := by simp
    rw [if_neg this]; rfl
  | cons b t ih =>
    rw [logBytes, ih]
    by_cases h1 : key + 1 ≤ a ∧ a < key + 1 + t.length
    · have h2 : key ≤ a ∧ a < key + (b :: t).length := by simp; omega
      rw [if_pos h1, if_pos h2]
      have h3 : a - key = a - (key + 1) + 1 := by omega
      rw [h3]; simp
    · rw [if_neg h1, logFind]
      by_cases hk : key = a
      · subst hk; simp
      · have h2 : ¬(key ≤ a ∧ a < key + (b :: t).length) := by simp at h1 ⊢; omega
        rw [if_neg h2]; simp [hk]

end Sys2Proof.Machine
end

