-- ==== Sys2Proof/Laws/Ops.lean ====
section
/-! SUPPORT. What the shared operations do: ending an instruction, settling after writes, the frame of every step. -/

namespace Sys2Proof.Machine

/-- Between steps the step's own state is the state. -/
theorem State.clearLog (s : State) (h : s.wlog = []) : { s with wlog := [] } = s := by cases s; simp_all

/-- A step without writes. -/
theorem runStep_quiet (f : State → State) (s : State) (h : s.wlog = []) (hw : (f s).wlog = []) :
    runStep f s = .next { f s with mem := s.mem, wlog := [], sec := s.sec } := by
  simp [runStep, s.clearLog h, hw, memCommit]

/-- Every step commits its writes to memory in order and leaves the trust record alone. -/
theorem runStep_next (f : State → State) (s : State) :
    ∃ t, runStep f s = .next t ∧ t.wlog = [] ∧ t.sec = s.sec ∧ ∃ log, t.mem = memCommit s.mem log := by
  exact ⟨_, rfl, rfl, rfl, _, rfl⟩

theorem runTrust_next (g : State → Trust) (f : State → State) (s : State) :
    ∃ t, runTrust g f s = .next t ∧ t.wlog = [] ∧ t.sec = g { s with wlog := [] } ∧ ∃ log, t.mem = memCommit s.mem log := by
  exact ⟨_, rfl, rfl, rfl, _, rfl⟩

/-- A step that runs an effect keeps memory in canonical form. -/
theorem runStep_memOk (f : State → State) (s t : State) (h : s.MemOk) (ht : runStep f s = .next t) : t.MemOk := by
  obtain ⟨u, hu, hw, -, log, hm⟩ := runStep_next f s
  rw [ht] at hu; cases hu
  exact ⟨hm ▸ memCommit_wf _ _ h.1, hw⟩

theorem runTrust_memOk (g : State → Trust) (f : State → State) (s t : State) (h : s.MemOk) (ht : runTrust g f s = .next t) : t.MemOk := by
  obtain ⟨u, hu, hw, -, log, hm⟩ := runTrust_next g f s
  rw [ht] at hu; cases hu
  exact ⟨hm ▸ memCommit_wf _ _ h.1, hw⟩

/-- Ending an instruction that is no replay moves the pc past it. -/
theorem movePc_fresh (s : State) (h : s.cur.cap = none) : movePc s = updSelf s (fun st => { st with pc := s.cur.pc + 4, hold := none }) := by
  simp [movePc, h]

theorem stepOrWatch_quiet (s : State) (i n : Nat) (hw : s.cur.watch = none) (hs : (getStrand s i).spr.ss = false) : stepOrWatch s i n = s := by
  simp [stepOrWatch, hw, hs]

theorem advance_plain (s : State) (n : Nat) (h : s.cur.cap = none) (hw : s.cur.watch = none) (hs : (self s).spr.ss = false) :
    advance s n = updSelf s (fun st => { st with pc := s.cur.pc + 4, hold := none }) := by
  unfold advance
  rw [movePc_fresh s h, stepOrWatch_quiet]
  · exact hw
  · show (self (updSelf s _)).spr.ss = false
    rw [self_updSelf]; exact hs

theorem result_plain (s : State) (d : Reg) (v : Word) (h : s.cur.cap = none) (hw : s.cur.watch = none) (hs : (self s).spr.ss = false) :
    result s d v = updSelf (setG s d v) (fun st => { st with pc := s.cur.pc + 4, hold := none }) := by
  unfold result
  rw [advance_plain]
  · rw [setG_cur]
  · rw [setG_cur]; exact h
  · rw [setG_cur]; exact hw
  · rw [self_setG s d v h, Strand.setReg_spr]; exact hs

/-- Operands of an instruction that is no replay. -/
theorem opA_fresh (s : State) (a : Reg) (h : s.cur.cap = none) : opA s a = (self s).reg a := by simp [opA, h]
theorem opB_fresh (s : State) (a : Reg) (h : s.cur.cap = none) : opB s a = (self s).reg a := by simp [opB, h]

/-- With no lock waited for, settling only marks counters that have met their target. -/
theorem settle_locks (s : State) (cells : List (Nat × List Nat)) (hc : ∀ c ∈ cells, c.2 = []) :
    cells.foldl (fun s c => match c.2 with
      | i :: rest => if readWord s c.1 == 0 then grantLock s c.1 i rest else s
      | [] => s) s = s := by
  induction cells with
  | nil => rfl
  | cons c t ih =>
    have h1 : c.2 = [] := hc c (by simp)
    simp only [List.foldl_cons, h1]
    exact ih (fun d hd => hc d (by simp [hd]))

end Sys2Proof.Machine
end

