-- ==== Sys2Proof/Tests/Slice0.lean ====
section
/-! SUPPORT. Small tests: well-formedness refuses what it should, words written out from the spec's encodings decode to their
instructions, single steps give what the spec says, and for every statement of Obligations a state and operands that meet its
hypotheses. -/

namespace Sys2Proof.Tests

open Sys2Proof Sys2Proof.Machine

/-! ### States -/

/-- Registers with the listed values. -/
def regs (xs : List (Nat × Word)) : Vector Word 32 := xs.foldl (fun v x => v.setIfInBounds x.1 x.2) (Vector.replicate 32 0)

/-- Bytes laid in HBM of module 0. -/
def lay (s : State) (pa : Nat) (bs : List Byte) : State := { s with mem := memCommit s.mem (logBytes [] (hbmKey 0 pa) bs) }

/-- Strand 0 of region 0 runs in supervisor mode, with a handler and a frame, and has issued a word. -/
def base : State :=
  setStrand { State.reset with cur := { pc := 0x10000, insn := 0x12345678 } } 0
    { run := .ready, spr := { svm := true, tvec := 0x2000, tframe := 0x3000 } }

/-- The same strand with registers. -/
def holding (xs : List (Nat × Word)) : State := updStrand base 0 (fun st => { st with regs := regs xs })

/-- It runs in user mode. -/
def user (s : State) : State := updStrand s 0 (fun st => { st with spr := { st.spr with svm := false } })

theorem plain_of {s : State} (h : (Memory.wf s.mem && s.wlog.isEmpty && s.cur.cap.isNone && s.cur.home.isNone && !s.cur.denied && s.cur.watch.isNone
    && decide ((self s).run = .ready) && !(self s).spr.ss && (self s).sent.isEmpty) = true) : Plain s := by
  simp only [Bool.and_eq_true, List.isEmpty_iff, Option.isNone_iff_eq_none, decide_eq_true_eq, Bool.not_eq_true'] at h
  obtain ⟨⟨⟨⟨⟨⟨⟨⟨h1, h2⟩, h3⟩, h4⟩, h5⟩, h6⟩, h7⟩, h8⟩, h9⟩ := h
  exact ⟨⟨h1, h2⟩, h3, h4, h5, h6, h7, h8, h9⟩
theorem mem_of {s : State} (h : (Memory.wf s.mem && s.wlog.isEmpty) = true) : s.MemOk := by
  simpa [State.MemOk] using h

theorem direct_of {s : State} (h : (!inOpenTask s (me s) && decide ((self s).view = {}) && s.part.isEmpty) = true) : Direct s := by
  simp only [Bool.and_eq_true, decide_eq_true_eq, Bool.not_eq_true', List.isEmpty_iff] at h
  exact ⟨h.1.1, by simp [h.1.2], by simp [h.1.2], by simp [h.1.2], h.2⟩
theorem trappable_of {s : State} (h : (!(self s).spr.inh && decide ((self s).spr.tvec ≠ 0) && !inOpenTask s (me s) &&
    (frameKeys s { strandSpace s (me s) with svm := handlerSvm s (me s) } (self s).spr.tframe .write 10).isSome) = true) : Trappable s := by
  simp only [Bool.and_eq_true, decide_eq_true_eq, Bool.not_eq_true'] at h
  exact ⟨h.1.1.1, h.1.1.2, h.1.2, h.2⟩

/-- An access of the strand in progress reaches HBM at its own address. -/
theorem lands_of {s : State} {va : Word} {n : Nat} {k : Acc} {key : Nat} {pte : Word}
    (h : (decide (translate s (strandSpace s (me s)) va k = .ok key pte) && !awayKey s key && !bit pte 5 && !poisoned s key n) = true) : Lands s va n k key pte := by
  simp only [Bool.and_eq_true, decide_eq_true_eq, Bool.not_eq_true'] at h
  exact ⟨h.1.1.1, h.1.1.2, h.1.2, .inr h.2⟩
theorem calm_of {s : State} (h : (s.teth.locks.cells.all (fun c => c.2.isEmpty)) = true) : NoLockWaits s := by
  intro c hc
  simpa using List.all_eq_true.mp h c hc


/-! ### What well-formedness refuses: one term per check -/

theorem test_wf_amo_scope : (Instr.amo 1 2 3 5 false false false 0).wellFormed = false := by decide
theorem test_wf_amo_op : (Instr.amo 1 2 3 0 false false false 9).wellFormed = false := by decide
theorem test_wf_cas_scope : (Instr.cas 1 2 3 7 false false false).wellFormed = false := by decide
theorem test_wf_phase_scope : (Instr.phase 5 1).wellFormed = false := by decide
theorem test_wf_phase_none : (Instr.phase 0 0).wellFormed = false := by decide
theorem test_wf_waitge : (Instr.waitge 1 2 3 6).wellFormed = false := by decide
theorem test_wf_bar : (Instr.bar 1 2 5).wellFormed = false := by decide
theorem test_wf_lock : (Instr.lock 1 2 5).wellFormed = false := by decide
theorem test_wf_unlock : (Instr.unlock 1 2 6).wellFormed = false := by decide
theorem test_wf_strand : (Instr.strand 1 2 3 5).wellFormed = false := by decide
theorem test_wf_mts_refined : (Instr.mts 1 5).wellFormed = false := by decide
theorem test_wf_mark_type : (Instr.mark 1 3 0 0).wellFormed = false := by decide
theorem test_wf_mark_scope : (Instr.mark 1 4 3 0).wellFormed = false := by decide
theorem test_wf_quiesce_limit : (Instr.quiesce 1 19).wellFormed = false := by decide
theorem test_wf_resume_act : (Instr.resume 3 0 0).wellFormed = false := by decide
theorem test_wf_load_length : (Instr.hostBar2Load false 0 4097).wellFormed = false := by decide
theorem test_wf_add : (Instr.add 1 2 3 1).wellFormed = true := by decide

/-! ### Witnesses: encodings and steps -/

/-- BARRIER (R238): op 0x08, target 0x20 the control queue. -/
def barrierWord : BitVec 128 := 0x08200000000000000000000000000000


theorem wit_DroverWordsDecodeBack : (Instr.add 5 6 7 1).wellFormed = true ∧ encode (.add 5 6 7 1) = some 0x00A63A00 := by decide
theorem wit_CommandWordsDecodeBack : Instr.barrier.wellFormed = true ∧ encodeCmd .barrier = some (barrierWord) := by decide
theorem wit_AcceptedWordsHaveNoIgnoredBit : decode 0x00A63A00 = .ok (.add 5 6 7 1) := by decide

/-- ADD g7, g5, g6 stands at the pc, and the strand has the next turn. -/
def fetching : State := { lay (updStrand (holding [(5, 7), (6, 3)]) 0 (fun st => { st with pc := 0x10000 })) 0x10000 [0x00, 0x30, 0xE5, 0x00] with schedule := [.issue 0 0] }

theorem wit_StepRunsFetchedInstruction :
    let u := turnState { fetching with schedule := [] } 0 0
    fetching.power.powered = true ∧ fetching.schedule = .issue 0 0 :: [] ∧ mayIssue { fetching with schedule := [] } 0 0 = true ∧
    (self u).traps.stopDue = false ∧ (self u).traps.stepDue = false ∧ (self u).traps.watchDue = none ∧ (self u).traps.replay = [] ∧ (myTeam u).energy.at0.contains 0 = false ∧
    (self u).pc.toNat % 4 = 0 ∧
    let u := { u with cur := { u.cur with pc := (self u).pc, insn := 0, cap := none } }
    translate u (strandSpace u (me u)) (self u).pc .fetch = .ok 0x10000 0 ∧
    let hit := (watchHit u (strandSpace u (me u)).tag 0x10000 0 4 .fetch).map (fun j => (self u).pc + BitVec.ofNat 64 j)
    let u := fetchSeen (touched u (self u).pc 0x10000 0 4) 0x10000
    let u := { u with cur := { u.cur with watch := hit } }
    poisoned u 0x10000 4 = false ∧
    let x := fetchBytes u (me u) 0x10000 4
    (0x00E53000 : Word32) = BitVec.ofNat 32 (ofBytes x.1) ∧ decode 0x00E53000 = .ok (.add 7 5 6 0) ∧ (self (chargeIssue x.2)).badpar = [] := by decide
theorem test_step_add : (match step fetching with | .next t => (getStrand t 0).reg 7 | _ => 0) = 10 := by decide

/-- BARRIER stands at the head of every queue of region 0, with the next turn. -/
def barrierHead : State :=
  let c : QCmd := { num := 1, word := barrierWord }
  { updRegion State.reset 0 (fun g => { g with cmds := { seq := 2, live := [1], queues := ⟨(List.range 33).map (fun q => (q, [c]))⟩ } }) with schedule := [.command 0 0] }

theorem wit_StepRunsCommandOrEvent_command : barrierHead.power.powered = true ∧ barrierHead.schedule = .command 0 0 :: [] ∧
    headReady { barrierHead with schedule := [] } 0 0 = some { num := 1, word := barrierWord } ∧ decodeCmd (barrierWord) = .ok .barrier := by decide
theorem wit_StepRunsCommandOrEvent_event : State.reset.power.powered = true ∧ isEvent .drawInterval = true ∧
    ({ State.reset with schedule := [.event .drawInterval] } : State).schedule = .event .drawInterval :: [] := by decide
theorem wit_StepRunsCommandOrEvent_off : ({ State.reset with power := { powered := false } } : State).power.powered = false ∧
    State.reset.schedule.head? ≠ some (.event .coldReset) := by decide
theorem wit_StepRunsCommandOrEvent_tick : ({ State.reset with schedule := [.tick 1] } : State).schedule = .tick 1 :: [] ∧ mayTick { State.reset with schedule := [] } 1 = true ∧ (∀ x ∈ State.reset.tiles.vals, x.fir = none) ∧ (∀ c ∈ State.reset.chans.vals, ∀ b ∈ c.branches, b.shed = none) := by decide
theorem wit_StepsKeepMemoryCanonical : fetching.MemOk ∧ ∃ t, step fetching = .next t := ⟨mem_of (by decide), _, rfl⟩
theorem wit_TrustChangesOnlyByItsSteps : ∃ t, exec (.add 7 5 6 0) fetching = .next t := ⟨_, rfl⟩
theorem reset_MemOk : State.reset.MemOk := mem_of (by decide)

/-! ### Witnesses: registers -/

/-- g5 and g6 at the ends of their ranges: the least signed number and −1. -/
def extremes : State := holding [(5, 0x8000000000000000), (6, -1)]
theorem wit_RegisterArithmetic : Plain extremes := plain_of (by decide)
theorem wit_Immediates : Plain extremes := plain_of (by decide)
theorem wit_BranchesAndJumps : Plain extremes := plain_of (by decide)
theorem wit_SpecialRegisters_read : Plain extremes ∧ (0x16 : BitVec 12).toNat ≤ 0x16 ∧ (0x20 ≤ (0x23 : BitVec 12).toNat ∧ (0x23 : BitVec 12).toNat ≤ 0x23) ∧
    (self extremes).spr.svm = true := ⟨plain_of (by decide), by decide⟩

/-- One supervisor team holds region 0. -/
def team1 : Team := { id := 1, state := .running, svm := true }
def teamed (s : State) : State := setTeam s 1 team1
theorem teamHere_of {s : State} {tm : Team} (h1 : teamOf s s.cur.reg.toNat = some tm) (h2 : s.teams.cells = [(tm.id, tm)]) : TeamHere s tm :=
  ⟨h1, by simp [Assoc.find?, Assoc.findIn, h2], fun c hc _ => by simp_all⟩

theorem wit_SpecialRegisters_trapRegisters : Plain (holding [(5, 0x14)]) ∧ bitsN ((self (holding [(5, 0x14)])).reg 5) 0 2 = 0 ∧
    bitsN ((self (holding [(5, 0x40)])).reg 5) 0 6 = 0 ∧ bitsN ((self (holding [(5, 0x15)])).reg 5) 10 54 = 0 ∧ bit ((self (holding [(5, 0x15)])).reg 5) 3 = false :=
  ⟨plain_of (by decide), by decide⟩
theorem wit_SpecialRegisters_others : Plain (teamed (holding [(5, 2), (6, 0x8000000000000000)])) ∧
    (let s := teamed (holding [(5, 2), (6, 0x8000000000000000)])
     bitsN ((self s).reg 5) 5 59 = 0 ∧ (bitsN ((self s).reg 5) 0 2 = 1 ∨ bitsN ((self s).reg 5) 0 2 = 2) ∧ (self s).spr.svm = true ∧ teamOf s s.cur.reg.toNat = some team1 ∧ s.teams.find? team1.id = some team1 ∧
     ∀ j, j < 32 → bitsN ((self s).reg 6) (2 * j) 2 ≠ 3) := ⟨plain_of (by decide), by decide, by decide, by decide, rfl, rfl, by decide⟩
theorem wit_SpecialRegisters_contents : Plain (teamed extremes) ∧ teamOf (teamed extremes) (me (teamed extremes) / 4) = some team1 ∧ team1.w = 2 ^ 0 ∧ team1.h = 2 ^ 0 ∧
    ¬(∃ k, k < 4 ∧ (getStrand extremes (0 * 4 + k)).spr.prio.toNat < (getStrand extremes (0 * 4 + k)).spr.eprio.toNat) ∧
    (∃ k, k < 4 ∧ (getStrand (updStrand extremes 2 (fun st => { st with spr := { st.spr with eprio := 1 } })) (0 * 4 + k)).spr.prio.toNat <
      (getStrand (updStrand extremes 2 (fun st => { st with spr := { st.spr with eprio := 1 } })) (0 * 4 + k)).spr.eprio.toNat) ∧ (0x23 : BitVec 12).toNat = 0x20 + 3 :=
  ⟨plain_of (by decide), rfl, rfl, rfl, by decide, ⟨2, by decide⟩, by decide⟩
theorem wit_SpecialRegisters_step : Plain (holding [(5, 0x1D)]) ∧ bitsN ((self (holding [(5, 0x1D)])).reg 5) 10 54 = 0 ∧ bit ((self (holding [(5, 0x1D)])).reg 5) 3 = true ∧
    (self (holding [(5, 0x1D)])).spr.svm = true ∧ (self (holding [(5, 0x1D)])).traps.due = none := ⟨plain_of (by decide), by decide⟩
theorem wit_SpecialRegisterTraps_fields : Plain (holding [(5, 8), (6, 0x20), (7, 3)]) ∧ Trappable (holding [(5, 8), (6, 0x20), (7, 3)]) ∧
    (let s := holding [(5, 8), (6, 0x20), (7, 3)]
     bitsN ((self s).reg 5) 10 54 = 0 ∧ bit ((self s).reg 5) 3 = true ∧ bitsN ((self s).reg 6) 5 59 ≠ 0 ∧ (self s).spr.svm = true ∧ bitsN ((self s).reg 7) (2 * 0) 2 = 3) :=
  ⟨plain_of (by decide), trappable_of (by decide), by decide⟩
theorem wit_SpecialRegisterTraps : Plain (user (holding [(5, 0x401)])) ∧ Trappable (user (holding [(5, 0x401)])) ∧ NoLockWaits (user (holding [(5, 0x401)])) ∧
    specialAssigned 0x17 = false ∧ specialAssigned 0x23 = true ∧ (self (user (holding [(5, 0x401)]))).spr.svm = false ∧
    bitsN ((self (user (holding [(5, 0x401)]))).reg 5) 0 2 ≠ 0 ∧ bitsN ((self (user (holding [(5, 0x401)]))).reg 5) 10 54 ≠ 0 ∧
    bitsN ((self (user (holding [(5, 0x10)]))).reg 5) 10 54 = 0 ∧ bit ((self (user (holding [(5, 0x10)]))).reg 5) 4 ≠ (self (user (holding [(5, 0x10)]))).spr.dba :=
  ⟨plain_of (by decide), trappable_of (by decide), calm_of (by decide), by decide⟩

/-! ### Witnesses: memory -/

/-- g5 points at 16 bytes of HBM, g6 at their second byte; g7 is in the Carter page; bytes lie at 0x40. -/
def pointing : State := lay (holding [(5, 0x40), (6, 0x41), (7, 0x100000000000), (8, 0x80FF)]) 0x40 [0xFE, 0xFF, 0xFF, 0xFF, 0, 0, 0, 0x80]

theorem wit_Loads : Plain pointing ∧ Direct pointing ∧ ((self pointing).reg 5 + (0 : Half).signExtend 64).toNat % szBytes 0 = 0 ∧
    Lands pointing ((self pointing).reg 5 + (0 : Half).signExtend 64) (szBytes 0) .read 0x40 0 ∧
    Lands pointing ((self pointing).reg 6 + (-1 : Half).signExtend 64) 4 .read 0x40 0 ∧
    Lands pointing ((self pointing).reg 6 + (0xFFFF : Half).signExtend 64) 2 .read 0x40 0 ∧ Lands pointing ((self pointing).reg 6 + (0 : Half).signExtend 64) 1 .read 0x41 0 :=
  ⟨plain_of (by decide), direct_of (by decide), by decide, lands_of (by decide), lands_of (by decide), lands_of (by decide), lands_of (by decide)⟩
theorem wit_Stores : Plain pointing ∧ Direct pointing ∧ NoLockWaits pointing ∧ Lands pointing ((self pointing).reg 6 + (0 : Half).signExtend 64) (szBytes 3) .write 0x41 0 :=
  ⟨plain_of (by decide), direct_of (by decide), calm_of (by decide), lands_of (by decide)⟩

/-- The team has template 0x80FF mod 1024 = 0xFF; the start word in g8 names it. -/
def carting : State := setTeam pointing 1 { team1 with tmpl := ⟨[(0xFF, List.replicate 16 0)]⟩ }
theorem wit_CarterPage : Plain carting ∧ Direct carting ∧
    translate carting (strandSpace carting (me carting)) ((self carting).reg 7 + (448 : Half).signExtend 64) .write = .cart (64 * 7) ∧
    translate carting (strandSpace carting (me carting)) ((self carting).reg 7 + (8 : Half).signExtend 64) .read = .cart (64 * 0 + 8) ∧
    translate carting (strandSpace carting (me carting)) ((self carting).reg 7 + (464 : Half).signExtend 64) .read = .cart (64 * 7 + 16) ∧
    bitsN (0xFF : Word) 0 16 < 1024 ∧ ((myTeam carting).tmpl.find? 0xFF).isSome = true :=
  ⟨plain_of (by decide), direct_of (by decide), by decide⟩
theorem wit_CarterPage_busy : (let c : Carter := { cur := some { start := { word := 0xFF }, susp := true } }
    c.queue.length ≤ 16 ∧ c.cur.isSome = true) := by decide
theorem wit_Atomics : Plain pointing ∧ Direct pointing ∧ NoLockWaits pointing ∧ Lands pointing ((self pointing).reg 5) 8 .atomic 0x40 0 ∧
    Lands pointing ((self pointing).reg 5) 4 .atomic 0x40 0 :=
  ⟨plain_of (by decide), direct_of (by decide), calm_of (by decide), lands_of (by decide), lands_of (by decide)⟩
/-- One store is still under way, and a byte is bound. -/
def underWay : State := updStrand pointing 0 (fun st => { st with view := { stores := [{ key := 0x48, bytes := [1, 2] }], snap := ⟨[(0x40, { mem := some 3 })]⟩ } })
theorem wit_Phases : Plain underWay ∧ NoLockWaits underWay ∧ underWay.part = [] ∧ (∀ p ∈ (self underWay).view.stores, p.sent = false) ∧
    (self underWay).view.stores = [{ key := 0x48, bytes := [1, 2] }] ∧ bit (2 : BitVec 2) 1 = true ∧ 3 ≤ (3 : BitVec 3).toNat ∧ (2 : BitVec 3).toNat < 3 ∧
    bit (1 : BitVec 2) 0 = true ∧ bit (1 : BitVec 2) 1 = false := ⟨plain_of (by decide), calm_of (by decide), by decide⟩
theorem wit_MisalignedAccessesTrap : Plain pointing ∧ Trappable pointing ∧ NoLockWaits pointing ∧ ((self pointing).reg 6).toNat % 2 ≠ 0 ∧
    ((self pointing).reg 6 + (0 : Half).signExtend 64).toNat % szBytes 1 ≠ 0 ∧ (myTeam pointing).energy.due = 0 :=
  ⟨plain_of (by decide), trappable_of (by decide), calm_of (by decide), by decide⟩

/-! ### Witnesses: exceptions -/

theorem wit_ExceptionEntry : frameKeys base { strandSpace base 0 with svm := handlerSvm base 0 } (getStrand base 0).spr.tframe .write 10 ≠ none := by decide
/-- The frame lies outside every address space. -/
def frameless (s : State) : State := updStrand s 0 (fun st => { st with spr := { st.spr with tframe := 0x0100000000000000 } })
theorem wit_ExceptionEntry_none : frameKeys (frameless base) { strandSpace (frameless base) 0 with svm := handlerSvm (frameless base) 0 }
    (getStrand (frameless base) 0).spr.tframe .write 10 = none := by decide
def blocksB (s : State) (va : Word) (k : Acc) : List Nat → Bool
  | [] => true
  | key :: ks => match translate s (strandSpace s (me s)) va k with
    | .ok key' pte => key' == key && !awayKey s key && !bit pte 5 && !poisoned s key 64 && blocksB (touched s va key pte 64) (va + 64) k ks
    | _ => false
theorem blocks_of {k : Acc} : ∀ {ks : List Nat} {s : State} {va : Word}, blocksB s va k ks = true → Blocks s va k ks
  | [], _, _, _ => trivial
  | key :: ks, s, va, h => by
    rw [blocksB] at h
    split at h
    · rename_i key' pte he
      simp only [Bool.and_eq_true, beq_iff_eq, Bool.not_eq_true'] at h
      obtain ⟨⟨⟨⟨rfl, h2⟩, h3⟩, h4⟩, h5⟩ := h
      exact ⟨pte, ⟨he, h2, h3, .inr h4⟩, blocks_of h5⟩
    · exact absurd h (by simp)
/-- In the handler, with a frame of one entry that returns to 0x5000 in supervisor mode. -/
def inHandler : State := updStrand (lay base 0x3000 ([7, 1] ++ List.replicate 46 0 ++ [0, 0x50] ++ List.replicate 6 0 ++ [2])) 0 (fun st => { st with spr := { st.spr with inh := true } })
theorem wit_ReturnFromException : Plain inHandler ∧ Direct inHandler ∧ (self inHandler).traps.replay = [] ∧ [0x3000, 0x3040, 0x3080, 0x30C0, 0x3100].length = 5 ∧
    Blocks inHandler (self inHandler).spr.tframe .read [0x3000, 0x3040, 0x3080, 0x30C0, 0x3100] ∧ (self inHandler).spr.svm = true ∧
    bitsN ((bytesWords (blockBytes inHandler [0x3000, 0x3040, 0x3080, 0x30C0, 0x3100]) 40).getD 0 0) 8 4 ≤ 8 :=
  ⟨plain_of (by decide), direct_of (by decide), by decide, by decide, blocks_of (by decide), by decide⟩
/-- A frame of supervisor mode that a user strand outside a handler names, and one of nine entries. -/
def framed (n : Byte) : State := lay base 0x3000 ([7, n] ++ List.replicate 46 0 ++ [0, 0x50] ++ List.replicate 6 0 ++ [2])
theorem wit_ReturnFromException_traps : (let s := user (framed 1)
    let ks := [0x3000, 0x3040, 0x3080, 0x30C0, 0x3100]
    Plain s ∧ Direct s ∧ NoLockWaits s ∧ Blocks s (self s).spr.tframe .read ks ∧ (self s).spr.svm = false ∧ bit ((bytesWords (blockBytes s ks) 40).getD 7 0) 1 = true ∧
      Trappable (afterBlocks s (self s).spr.tframe .read ks)) ∧
    (let s := framed 9
     let ks := [0x3000, 0x3040, 0x3080, 0x30C0, 0x3100]
     Plain s ∧ Direct s ∧ NoLockWaits s ∧ Blocks s (self s).spr.tframe .read ks ∧ (self s).spr.svm = true ∧ 8 < bitsN ((bytesWords (blockBytes s ks) 40).getD 0 0) 8 4 ∧
      Trappable (afterBlocks s (self s).spr.tframe .read ks)) :=
  ⟨⟨plain_of (by decide), direct_of (by decide), calm_of (by decide), blocks_of (by decide), by decide, by decide, trappable_of (by decide)⟩,
    ⟨plain_of (by decide), direct_of (by decide), calm_of (by decide), blocks_of (by decide), by decide, by decide, trappable_of (by decide)⟩⟩
theorem wit_TrapBreakpointYield : Plain base ∧ Trappable base ∧ NoLockWaits base ∧ (self base).spr.dba = false :=
  ⟨plain_of (by decide), trappable_of (by decide), calm_of (by decide), by decide⟩
theorem wit_DoubleTraps : teamOf (teamed inHandler) (0 / 4) = some team1 ∧ (teamed inHandler).teams.find? team1.id = some team1 ∧ (getStrand (teamed inHandler) 0).spr.inh = true := ⟨rfl, rfl, rfl⟩
theorem wit_DoubleTraps_frame : (let s := frameless (teamed base)
    teamOf s (0 / 4) = some team1 ∧ frameKeys s { strandSpace s 0 with svm := handlerSvm s 0 } (getStrand s 0).spr.tframe .write 10 = none) := ⟨rfl, by decide⟩
/-- A cause is pending. -/
def pending1 : State := updStrand base 0 (fun st => { st with traps := { st.traps with pend := [{ code := 0x12, tval := 5, tseq := 0 }] } })
theorem wit_AsyncDelivery : pending1.MemOk ∧ NoLockWaits pending1 ∧
    (let st := getStrand pending1 (sid 0 0)
     let team := (teamOf pending1 (sid 0 0 / 4)).getD {}
     st.traps.pend = { code := 0x12, tval := 5, tseq := 0 } :: [] ∧ st.spr.inh = false ∧ st.spr.tvec ≠ 0 ∧ st.run ≠ .stopped ∧ st.traps.blocked = false ∧
     st.traps.due = none ∧ st.sent = [] ∧ st.hold = none ∧ team.leave.closed = false ∧ team.state ≠ .loading) ∧
    (frameKeys pending1 { strandSpace pending1 0 with svm := handlerSvm pending1 0 } (getStrand pending1 0).spr.tframe .write 10).isSome = true :=
  ⟨mem_of (by decide), calm_of (by decide), by decide⟩

/-! ### Witnesses: waits and the tether table -/

/-- A counter of 5 at 0x40; g6 and g7 are targets below and above it. -/
def counting : State := lay (holding [(5, 0x40), (6, 5), (7, 6)]) 0x40 [5]
theorem wit_CounterAndCommandWaits_counter : Plain counting ∧ Direct counting ∧ ((self counting).reg 5).toNat % 8 = 0 ∧ Lands counting ((self counting).reg 5) 8 .read 0x40 0 ∧
    ((self counting).reg 6).toNat ≤ (BitVec.ofNat 64 (valueAt counting 0x40 8) : Word).toNat ∧
    (BitVec.ofNat 64 (valueAt counting 0x40 8) : Word).toNat < ((self counting).reg 7).toNat ∧ (self counting).spr.tfe = false :=
  ⟨plain_of (by decide), direct_of (by decide), by decide, lands_of (by decide), by decide⟩
theorem wit_CounterAndCommandWaits_room : MayWait (updStrand counting 0 (fun st => { st with spr := { st.spr with tfe := true } })) (memObj 0x40) := .inr (by decide)
/-- Numbers 3 and 5 are live, 9 comes next; g5 to g8 name 0, 5, 4 and 9. -/
def numbered : State := updRegion (holding [(5, 0), (6, 5), (7, 4), (8, 9)]) 0 (fun g => { g with cmds := { g.cmds with seq := 9, live := [5, 3] } })
theorem wit_CounterAndCommandWaits_command : Plain numbered ∧ Direct numbered ∧ bitsN ((self numbered).reg 5) 0 48 = 0 ∧
    (getRegion numbered 0).cmds.seq ≤ bitsN ((self numbered).reg 8) 0 48 ∧ bitsN ((self numbered).reg 7) 0 48 ∉ (getRegion numbered 0).cmds.live ∧
    bitsN ((self numbered).reg 6) 0 48 ∈ (getRegion numbered 0).cmds.live :=
  ⟨plain_of (by decide), direct_of (by decide), by decide⟩

/-- Strand 1 waits. -/
def waiting (s : State) (w : Wait) : State := setStrand s 1 { run := .waiting, pc := 0x44, wait := some w, spr := { svm := true, tvec := 0x2000, tframe := 0x3000 } }
theorem wakes_of {s : State} {i : Nat} {w : Wait} (h : (decide ((getStrand s i).wait = some w) && w.watch.isNone && !(getStrand s i).spr.ss &&
    !(getStrand s i).traps.idleAfter) = true) : Wakes s i w := by
  simp only [Bool.and_eq_true, decide_eq_true_eq, Option.isNone_iff_eq_none, Bool.not_eq_true'] at h
  exact ⟨h.1.1.1, h.1.1.2, h.1.2, h.2⟩
theorem wit_WaitsComplete_counter : (waiting base { on := .counter 0x40 5, dst := 9, met := some 5 }).MemOk ∧
    Wakes (waiting base { on := .counter 0x40 5, dst := 9, met := some 5 }) (sid 0 1) { on := .counter 0x40 5, dst := 9, met := some 5 } := ⟨mem_of (by decide), wakes_of (by decide)⟩
theorem wit_WaitsComplete_bar : Wakes (waiting base { on := .bar 1 0 2, dst := 9, met := some 7 }) (sid 0 1) { on := .bar 1 0 2, dst := 9, met := some 7 } := wakes_of (by decide)
theorem wit_WaitsComplete_cwait : 4 ∉ (getRegion (waiting numbered { on := .cwait 4, dst := 9 }) 0).cmds.live ∧
    Wakes (waiting numbered { on := .cwait 4, dst := 9 }) (sid 0 1) { on := .cwait 4, dst := 9 } := ⟨by decide, wakes_of (by decide)⟩
/-- One strand of 2 has arrived at both barriers; g5 and g6 count 2 and 3. -/
def arriving : State := setTeam (updRegion (holding [(5, 2), (6, 3)]) 0 (fun g => { g with barrier := { epoch := 4, arrived := 1 } })) 1 { team1 with barrier := { epoch := 6, arrived := 1 } }
theorem wit_Barriers : Plain arriving ∧ Direct arriving ∧ MayWait arriving (barObj arriving 1 1) ∧ MayWait arriving (barObj arriving 1 2) ∧
    TeamHere arriving { team1 with barrier := { epoch := 6, arrived := 1 } } ∧
    (getRegion arriving 0).barrier.n.getD 2 ≤ (getRegion arriving 0).barrier.arrived + 1 ∧ (getRegion arriving 0).barrier.arrived + 1 < (getRegion arriving 0).barrier.n.getD 3 ∧
    Trappable arriving ∧ NoLockWaits arriving ∧ (3 : BitVec 3) ≠ 1 ∧ (3 : BitVec 3) ≠ 2 :=
  ⟨plain_of (by decide), direct_of (by decide), .inl (by decide), .inl (by decide), teamHere_of rfl rfl, by decide, by decide, trappable_of (by decide), calm_of (by decide), by decide, by decide⟩
/-- g5 points at a lock word. -/
def locking (word : List Byte) (order : List Nat) : State :=
  let s := lay (waiting (holding [(5, 0x40)]) { on := .lock 0x40, dst := 9 }) 0x40 word
  { s with teth := { s.teth with locks := if order.isEmpty then {} else ⟨[(0x40, order)]⟩ } }
def owned : List Byte := [0, 0, 0, 0, 0, 0, 0, 0x80]
theorem wit_LocksAndUnlocks_free : Plain (locking [] []) ∧ Direct (locking [] []) ∧ ((self (locking [] [])).reg 5).toNat % 8 = 0 ∧
    Lands (locking [] []) ((self (locking [] [])).reg 5) 8 .atomic 0x40 0 ∧ valueAt (locking [] []) 0x40 8 = 0 ∧ NoLockWaits (locking [] []) :=
  ⟨plain_of (by decide), direct_of (by decide), by decide, lands_of (by decide), by decide, calm_of (by decide)⟩
theorem wit_LocksAndUnlocks_held : Lands (locking [7] []) ((self (locking [7] [])).reg 5) 8 .atomic 0x40 0 ∧ valueAt (locking [7] []) 0x40 8 ≠ 0 ∧
    MayWait (locking [7] []) (memObj 0x40) ∧ valueAt (locking [7] []) 0x40 8 ≠ (ownerWord (locking [7] []) 0).toNat :=
  ⟨lands_of (by decide), by decide, .inl (by decide), by decide⟩
theorem wit_LocksAndUnlocks_mine : Plain (locking owned []) ∧ Direct (locking owned []) ∧ valueAt (locking owned []) 0x40 8 = (ownerWord (locking owned []) 0).toNat ∧
    (locking owned []).teth.locks.getD 0x40 [] = [] ∧ NoLockWaits (locking owned []) ∧ Lands (locking owned []) ((self (locking owned [])).reg 5) 8 .atomic 0x40 0 :=
  ⟨plain_of (by decide), direct_of (by decide), by decide, by decide, calm_of (by decide), lands_of (by decide)⟩
theorem wit_LocksAndUnlocks_passed : (∀ l ∈ (locking owned [1]).teth.locks.cells, l.1 ≠ 0x40 → l.2 = []) ∧ (locking owned [1]).teth.locks.getD 0x40 [] = 1 :: [] ∧
    1 ≠ me (locking owned [1]) ∧ Wakes (locking owned [1]) 1 { on := .lock 0x40, dst := 9 } ∧
    Plain (locking owned [1]) ∧ Direct (locking owned [1]) := ⟨by decide, by decide, by decide, wakes_of (by decide), plain_of (by decide), direct_of (by decide)⟩
/-- g5 points at an object; g6 is strand 1's owner word, g7 0. -/
def tethering (n : Nat) : State :=
  let s := holding [(5, 0x40), (6, 0x8000000000000001), (7, 0), (8, 0x8000000000000000), (9, 3)]
  { s with teth := { s.teth with entries := List.replicate n { waiter := 9, kind := 4, obj := 0x40 } } }
theorem wit_TetherTable : Plain (tethering 1) ∧ Direct (tethering 1) ∧ (tethering 1).teth.walks = [] ∧ ((self (tethering 1)).reg 5).toNat % 8 = 0 ∧
    Lands (tethering 1) ((self (tethering 1)).reg 5) 8 .read 0x40 0 ∧ (self (tethering 1)).reg 7 = 0 ∧
    ((tethering 1).teth.entries.filter (fun e => tethHome e.obj == tethHome (memObj 0x40))).length < 512 ∧ NoLockWaits (tethering 1) :=
  ⟨plain_of (by decide), direct_of (by decide), by decide, by decide, lands_of (by decide), by decide, by decide, calm_of (by decide)⟩
theorem wit_TetherTable_owner : (self (tethering 1)).reg 6 ≠ 0 ∧ isOwner ((self (tethering 1)).reg 6) = true ∧ bitsN ((self (tethering 1)).reg 6) 0 22 ≠ gidOf (tethering 1) (me (tethering 1)) ∧
    (∀ e ∈ (tethering 1).teth.entries, e.waiter = bitsN ((self (tethering 1)).reg 6) 0 22 → e.owner = none) ∧
    isOwner ((self (tethering 1)).reg 8) = true ∧ bitsN ((self (tethering 1)).reg 8) 0 22 = gidOf (tethering 1) (me (tethering 1)) ∧
    (self (tethering 1)).reg 9 ≠ 0 ∧ isOwner ((self (tethering 1)).reg 9) = false ∧ Trappable (touched (tethering 1) ((self (tethering 1)).reg 5) 0x40 0 8) :=
  ⟨by decide, by decide, by decide, by decide, by decide, by decide, by decide, by decide, trappable_of (by decide)⟩
theorem wit_TetherTable_full : ¬((tethering 512).teth.entries.filter (fun e => tethHome e.obj == tethHome (memObj 0x40))).length < 512 ∧
    (self (tethering 512)).spr.tfe = false := ⟨by decide +kernel, by decide⟩
theorem wit_TetherTable_fullTrap : (let s := updStrand (tethering 512) 0 (fun st => { st with spr := { st.spr with tfe := true } })
    (self s).spr.tfe = true ∧ ¬(s.teth.entries.filter (fun e => tethHome e.obj == tethHome (memObj 0x40))).length < 512) := by decide +kernel
/-- Strand 1 has an entry with no owner, and its walk is asked for. -/
def walking : State := { waiting base { on := .counter 0x40 5 } with teth := { entries := [{ waiter := 1, seen := false }], walks := [1] } }
theorem wit_TetherTable_walk : walking.MemOk ∧ walking.teth.walks = 1 :: [] ∧ walking.teth.entries.find? (fun e => e.waiter == 1) = some { waiter := 1, seen := false } :=
  ⟨mem_of (by decide), by decide⟩
/-- Strand 1 waits for an object that it owns itself. -/
def knotting : State := { waiting base { on := .lock 0x40, pc := 0x40 } with teth := { entries := [{ waiter := 1, owner := some 1, seen := false }], walks := [1] } }
theorem wit_TetherTable_knot : knotting.MemOk ∧ knotting.teth.walks = 1 :: [] ∧ knotting.teth.entries.find? (fun e => e.waiter == 1) = some { waiter := 1, owner := some 1, seen := false } ∧
    (getStrand knotting 1).wait = some { on := .lock 0x40, pc := 0x40 } ∧ (getStrand knotting 1).spr.inh = false ∧ (getStrand knotting 1).spr.tvec ≠ 0 ∧
    (frameKeys knotting { strandSpace knotting 1 with svm := handlerSvm knotting 1 } (getStrand knotting 1).spr.tframe .write 10).isSome = true ∧ NoLockWaits knotting :=
  ⟨mem_of (by decide), by decide, by decide, by decide, by decide, by decide, by decide, calm_of (by decide)⟩
/-- Strand 0 is to be settled: nothing waits for it, or strand 1 does with priority 5. -/
def dirty (es : List Teth) : State := { base with teth := { entries := es, dirty := [0] } }
theorem wit_TetherTable_settle : (dirty []).MemOk ∧ 0 ∈ (dirty []).teth.dirty ∧ (dirty []).teth.entries = [] ∧
    (dirty [{ waiter := 1, owner := some 0, prio := 5 }]).teth.entries = [{ waiter := 1, owner := some 0, prio := 5 }] ∧ (some 0 : Option Nat) = some (gidOf base 0) ∧
    1 ≠ gidOf base 0 ∧ (getStrand base 0).spr.prio.toNat < (5 : BitVec 3).toNat := ⟨mem_of (by decide), by decide⟩

/-! ### Witnesses: commands, ports, messages, reductions -/

/-- g5 points at a BARRIER command, g6 and g7 hold it too, g8 holds the high half of a command that does not exist; the first queue of region 0 holds n commands. -/
def offering (w : List (Nat × Word)) (n : Nat) : State :=
  updRegion (lay (holding w) 0x40 (List.replicate 14 0 ++ [0x20, 0x08])) 0 (fun g => { g with cmds := { g.cmds with queues := ⟨[(32, List.replicate n {})]⟩ } })
def offers : List (Nat × Word) := [(5, 0x40), (6, 0x0820000000000000), (7, 0), (8, 0xFF20000000000000), (9, 0x0820000000000001)]
theorem wit_CommandsOffered_read : Plain (offering offers 0) ∧ Direct (offering offers 0) ∧ (myTeam (offering offers 0)).energy.due = 0 ∧
    ((self (offering offers 0)).reg 5).toNat % 16 = 0 ∧ Lands (offering offers 0) ((self (offering offers 0)).reg 5) 16 .read 0x40 0 ∧
    barrierWord = BitVec.ofNat 128 (valueAt (offering offers 0) 0x40 16) ∧ decodeCmd barrierWord = .ok .barrier ∧ cmdSv (bitsN barrierWord 120 8) = false ∧
    cmdQueue barrierWord ≠ 33 ∧ (queueOf (offering offers 0) 0 (cmdQueue barrierWord)).length < 16 :=
  ⟨plain_of (by decide), direct_of (by decide), rfl, by decide, lands_of (by decide), by decide, by decide, by decide, by decide, by decide⟩
theorem wit_CommandsOffered_pair : barrierWord = (self (offering offers 16)).reg 6 ++ (self (offering offers 16)).reg 7 ∧ 16 ≤ (queueOf (offering offers 16) 0 (cmdQueue barrierWord)).length ∧
    decodeCmd ((self (offering offers 0)).reg 8 ++ (self (offering offers 0)).reg 7) = .error .illegalOp ∧
    decodeCmd ((self (offering offers 0)).reg 9 ++ (self (offering offers 0)).reg 7) = .error .reservedField ∧
    Trappable (offering offers 0) ∧ NoLockWaits (offering offers 0) := ⟨by decide, by decide, by decide, by decide, trappable_of (by decide), calm_of (by decide)⟩
/-- A WATCHSET of a user. -/
def watching : State := user (offering [(6, 0x1520000000000000), (7, 0)] 0)
theorem wit_CommandsOffered_user : (∃ i, decodeCmd ((self watching).reg 6 ++ (self watching).reg 7) = .ok i) ∧
    cmdSv (bitsN ((self watching).reg 6 ++ (self watching).reg 7) 120 8) = true ∧ (self watching).spr.svm = false := ⟨⟨_, rfl⟩, by decide⟩
/-- A RESUME of a Carter channel of team 1 in g6 and g7, with a QUOTA trap due or not. -/
def resuming (due : Nat) : State := setTeam (holding [(6, 0x1420000000000000), (7, 0x0040000000010000)]) 1 { team1 with energy := { due := due, en := true, exh := true } }
theorem wit_CommandsOffered_resume : Plain (resuming 0) ∧ Direct (resuming 0) ∧ (myTeam (resuming 0)).energy.due = 0 ∧
    decodeCmd ((self (resuming 0)).reg 6 ++ (self (resuming 0)).reg 7) = .ok (.resume 0 0 0x0040000000010000) := ⟨plain_of (by decide), direct_of (by decide), rfl, by decide⟩
theorem wit_CommandsOffered_quota : Plain (resuming 1) ∧ TeamHere (resuming 1) { team1 with energy := { due := 1, en := true, exh := true } } ∧ 0 < (1 : Nat) ∧
    Trappable (resuming 1) ∧ NoLockWaits (resuming 1) := ⟨plain_of (by decide), teamHere_of rfl rfl, by decide, trappable_of (by decide), calm_of (by decide)⟩
/-- Channel 3 goes from stream port 2 to stream port 5 of region 0; its records have one token. -/
def channel (buf : List Item) : Chan := { team := 1, prod := 1, pport := 2, branches := [{ kind := 1, port := 5, buf := buf }] }
/-- g5 points at 64 bytes; g6 names port 5, g7 port 2 with the sideband of a record of one token, g8 port 2 with a MARK, g9 port 9. -/
def streaming (buf : List Item) : State :=
  let s := teamed (lay (holding [(5, 0x40), (6, 5), (7, 0x3000010000000002), (8, 0xB000000000000002), (9, 9), (10, 0xFFFFFF0000000002)]) 0x40 [2])
  { s with chans := ⟨[(3, channel buf)]⟩ }
def token : Tok := ⟨77, Sb.mk 0 true true false false false false 1⟩
theorem wit_PortAccesses_read : Plain (streaming []) ∧ Direct (streaming []) ∧ NoLockWaits (streaming []) ∧ inPort (streaming []) 0 5 = some (3, 0) ∧
    portBusy (streaming []) 0 5 true = false ∧ Lands (streaming []) ((self (streaming [])).reg 5) 64 .write 0x40 0 ∧ inPort (streaming []) 0 9 = none ∧
    outPort (streaming []) 0 9 = none := ⟨plain_of (by decide), direct_of (by decide), calm_of (by decide), by decide, by decide, lands_of (by decide), by decide, by decide⟩
theorem wit_PortAccesses_heads : (getBranch (streaming [{ toks := [token] }]) 3 0).seen (streaming [{ toks := [token] }]).clock = .record { toks := [token] } ∧
    (getBranch (streaming [{ mark := true, toks := [markTok 2 0] }]) 3 0).seen (streaming [{ mark := true, toks := [markTok 2 0] }]).clock = .mark (markTok 2 0) ∧
    (getBranch (streaming [{ gaps := [{ cnt := 2 }], toks := [token] }]) 3 0).seen (streaming [{ gaps := [{ cnt := 2 }], toks := [token] }]).clock = .gap { cnt := 2 } ∧ (getPort (streaming []) 0 5).place = 0 := ⟨rfl, rfl, rfl, rfl⟩
theorem wit_PortAccesses_write : (let s := streaming []
    let pay : Line := BitVec.ofNat 512 (valueAt s 0x40 64)
    outPort s 0 2 = some 3 ∧ portBusy s 0 2 false = false ∧ sidePlace (bits ((self s).reg 7) 40 24) pay 1 [] = true ∧ Sb.isMark (bits ((self s).reg 7) 40 24) = false ∧
    sidePlace (bits ((self s).reg 8) 40 24) pay 1 [] = true ∧ Sb.isMark (bits ((self s).reg 8) 40 24) = true ∧ sidePlace (bits ((self s).reg 10) 40 24) pay 1 [] = false) := by
  decide +kernel

/-- Ingress port 1 is a QUEUE port of tag 0 with its counters at 0x900 and its slots at 0x1000; g6 names it, g7 a port without a ring. -/
def queueing (produced : Byte) : State :=
  let s := lay (teamed (holding [(5, 0x40), (6, 0x80000001), (7, 0x80000002)])) 0x900 [produced]
  setIPort (lay s 0x1000 [9]) 1 { desc := (0x1000 <<< 192) ||| (0x900 <<< 128) ||| (3 <<< 43) }
theorem wit_PortAccesses_queue : Plain (queueing 0) ∧ Pd.mode (getIPort (queueing 0) 1).desc = 3 ∧ Pd.atag (getIPort (queueing 0) 1).desc = (myTeam (queueing 0)).atag ∧
    readRing (queueing 0) 1 = none ∧ MayWait (queueing 0) (portObj (queueing 0) 1) ∧ Pd.mode (getIPort (queueing 0) 2).desc ≠ 3 :=
  ⟨plain_of (by decide), by decide +kernel, by decide +kernel, by decide +kernel, .inl (by decide), by decide +kernel⟩
/-- Strand 1 waits on the port, and an entry stands there. -/
def queued1 : State := waiting (queueing 1) { on := .queue 1, insn := 0x00000000, opa := 0x40, opb := 0x80000001 }
/-- The strand in progress takes the entry that stands there. -/
theorem wit_PortAccesses_entry : Plain (queueing 1) ∧ Direct (queueing 1) ∧ NoLockWaits (queueing 1) ∧ (readRing (queueing 1) 1).isSome = true ∧
    Lands (queueing 1) ((self (queueing 1)).reg 5) 64 .write 0x40 0 ∧ portSpace (queueing 1) (getIPort (queueing 1) 1).desc = some { svm := true } ∧
    (let u := writeBytes (touched (queueing 1) 0x40 0x40 0 64) 0x40 (toBytes (9 : Line) 64)
     (readRing (queueing 1) 1).map (fun y => (y.1, y.2.1)) = (readRing u 1).map (fun y => (y.1, y.2.1)) ∧
     (readRing (queueing 1) 1).map (fun y => y.1) = some 9 ∧ counterKeys u { svm := true } (getIPort (queueing 1) 1).desc .write = some (0x900, 0x908)) ∧ 0x40 + 64 ≤ 0x908 :=
  ⟨plain_of (by decide), direct_of (by decide), calm_of (by decide), by decide +kernel, lands_of (by decide), by decide +kernel, by decide +kernel, by decide⟩
theorem wit_PortAccesses_wake : queued1.MemOk ∧ NoLockWaits queued1 ∧ Wakes queued1 (sid 0 1) { on := .queue 1, insn := 0x00000000, opa := 0x40, opb := 0x80000001 } ∧
    (let u : State := { queued1 with cur := { reg := 0, str := 1, pc := 0, insn := 0x00000000, cap := some (0x40, 0x80000001) } }
     let u' := writeBytes (touched u 0x40 0x40 0 64) 0x40 (toBytes (9 : Line) 64)
     Direct u ∧ Lands u 0x40 64 .write 0x40 0 ∧ (readRing queued1 1).map (fun y => (y.1, y.2.1)) = (readRing u' 1).map (fun y => (y.1, y.2.1)) ∧
     (readRing queued1 1).map (fun y => y.1) = some 9 ∧ portSpace queued1 (getIPort queued1 1).desc = some { svm := true } ∧
     counterKeys u' { svm := true } (getIPort queued1 1).desc .write = some (0x900, 0x908)) :=
  ⟨mem_of (by decide), calm_of (by decide), wakes_of (by decide), direct_of (by decide), lands_of (by decide), by decide +kernel, by decide +kernel, by decide +kernel, by decide +kernel⟩
/-- g5 points at 64 bytes, g6 names port 0 of die 0 of this module, g7 has a reserved bit. -/
def sending (c0 : Nat) : State :=
  let s := updStrand (lay (holding [(5, 0x40), (6, 0), (7, 0x10000)]) 0x40 [1]) 0 (fun st => { st with c0 := c0 })
  { s with fab := { s.fab with written := true } }
theorem wit_MessagesEnqueued : Plain (sending 15) ∧ Direct (sending 15) ∧ Lands (sending 15) ((self (sending 15)).reg 5) 64 .read 0x40 0 ∧
    bitsN ((self (sending 15)).reg 6) 16 35 = 0 ∧ (sending 15).fab.written = true ∧ bitsN ((self (sending 15)).reg 6) 51 13 = modN (sending 15) ∧
    (self (sending 15)).c0 < 16 ∧ (sending 15).fab.c0q.getD 0 0 < 256 ∧ ¬((self (sending 16)).c0 < 16) ∧ bitsN ((self (sending 15)).reg 7) 16 35 ≠ 0 :=
  ⟨plain_of (by decide), direct_of (by decide), lands_of (by decide), by decide⟩

/-- Tree 0 of team 1: one node, in region 0, with the strand and another as its children; g5 points at memory, g6 names the tree, g7 an empty contribution, g8 no tree. -/
def node0 : Node := { kids := [.self 0, .self 1] }
def reducing (t : Tree) : State :=
  let s := teamed (lay (holding [(5, 0x40), (6, 0), (7, 0x100), (8, 1)]) 0x40 [1])
  { s with trees := ⟨[(0, t)]⟩ }
def tree0 : Tree := { team := 1, nodes := [node0] }
theorem wit_Reductions_send : Plain (reducing tree0) ∧ Direct (reducing tree0) ∧ NoLockWaits (reducing tree0) ∧ teamTree (reducing tree0) (myTeam (reducing tree0)).id 1 = none ∧
    teamTree (reducing tree0) (myTeam (reducing tree0)).id 0 = some tree0 ∧ tree0.node 0 = some node0 ∧ node0.slot 0 = some 0 ∧
    (self (reducing tree0)).epochs.getD 0 0 < node0.epoch + 2 ∧ bit ((self (reducing tree0)).reg 7) 8 = true ∧
    Blocks (reducing tree0) ((self (reducing tree0)).reg 5) .read [0x40] :=
  ⟨plain_of (by decide), direct_of (by decide), calm_of (by decide), rfl, rfl, rfl, by decide, by decide, by decide, blocks_of (by decide)⟩
theorem wit_MisalignedAccessesTrap_send : Plain (reducing tree0) ∧ Trappable (reducing tree0) ∧ (let s := reducing tree0
    ((self s).reg 8).toNat % 64 ≠ 0 ∧ bitsN ((self s).reg 6) 6 58 = 0 ∧ teamTree s (myTeam s).id (bitsN ((self s).reg 6) 0 6) = some tree0) ∧
    tree0.node 0 = some node0 ∧ node0.slot 0 = some 0 := ⟨plain_of (by decide), trappable_of (by decide), ⟨by decide, by decide, rfl⟩, rfl, rfl⟩
def result0 : Contrib := { epoch := 3, val := some [5] }
theorem wit_Reductions_receive : teamTree (reducing { tree0 with results := [result0] }) 1 0 = some { tree0 with results := [result0] } ∧ result0.mask = 0 ∧
    Blocks (reducing { tree0 with results := [result0] }) ((self (reducing { tree0 with results := [result0] })).reg 5) .write [0x40, 0x80] ∧
    Blocks (reducing tree0) ((self (reducing tree0)).reg 5) .write [0x40] ∧ ([0x40, 0x80] : List Nat).length = tree0.len + 1 :=
  ⟨rfl, rfl, blocks_of (by decide), blocks_of (by decide), rfl⟩
/-- A contribution on its way, of epoch e, to a node whose other child has sent. -/
def moving0 (e : Nat) (held : List Contrib) : State :=
  let s := reducing { tree0 with nodes := [{ node0 with epoch := 1, held := held, due := some 0 }] }
  { s with fab := { s.fab with inbound := [{ hdr := mkHdr 0 0 0 0 0 2 0 0 1 (e * 2 ^ 15), addr := 0, pay := [7] }] } }
def packet0 (e : Nat) : Packet := { hdr := mkHdr 0 0 0 0 0 2 0 0 1 (e * 2 ^ 15), addr := 0, pay := [7] }
theorem wit_Reductions_arrive : (moving0 1 [{ epoch := 1, child := 1 }]).MemOk ∧
    (moving0 0 []).fab.inbound.find? (contribFor (moving0 0 []) 0 { node0 with epoch := 1, due := some 0 }) = some (packet0 0) ∧
    (moving0 1 []).fab.inbound.find? (contribFor (moving0 1 []) 0 { node0 with epoch := 1, due := some 0 }) = some (packet0 1) ∧
    (contribOf { node0 with epoch := 1 } (packet0 0)).epoch < 1 ∧ (contribOf { node0 with epoch := 1 } (packet0 1)).epoch = 1 ∧
    (∀ v, (contribOf { node0 with epoch := 1 } (packet0 1)).val = some v → v.length = tree0.len) ∧
    ({ node0 with epoch := 1, held := [contribOf { node0 with epoch := 1 } (packet0 1)] } : Node).complete = false ∧
    ({ node0 with epoch := 1, held := [{ epoch := 1, child := 1 }, contribOf { node0 with epoch := 1 } (packet0 1)] } : Node).complete = true ∧
    ({ node0 with epoch := 1, due := some 0 } : Node).due = some 0 ∧ (reducing tree0).clock = 0 ∧ node0.parent = none := by
  refine ⟨mem_of (by decide), by decide +kernel, by decide +kernel, by decide +kernel, by decide +kernel, ?_, by decide +kernel, by decide +kernel, rfl, rfl, rfl⟩
  intro v h
  have e : (contribOf { node0 with epoch := 1 } (packet0 1)).val = some [7] := by decide +kernel
  rw [e] at h
  cases h
  rfl
/-- The node of region 1 has region 0's for its child, whose own epoch is complete with the contribution on its way. -/
def tree1 : Tree := { team := 1, nodes := [{ node0 with parent := some 1 }, { reg := 1, kids := [.node 0] }] }
theorem wit_Reductions_up : tree1.node 0 = some { node0 with parent := some 1 } ∧ tree1.node (1 : RegionId).toNat = some { reg := 1, kids := [.node 0] } ∧ (1 : RegionId) ≠ 0 ∧
    ({ node0 with parent := some 1, held := [{ child := 1 }, contribOf node0 (packet0 0)] } : Node).complete = true := ⟨rfl, rfl, by decide, by decide +kernel⟩

/-! ### Witnesses: launches, strands, tasks, regions -/

/-- Four little-endian bytes, and eight. -/
def b4 (n : Nat) : List Byte := toBytes (BitVec.ofNat 32 n) 4
def b8 (n : Nat) : List Byte := toBytes (BitVec.ofNat 64 n) 8
/-- A CFG1 image (R254, R255): the header, one pattern, one RECT record of one tile. -/
def smallImage : List Byte :=
  b4 0x31474643 ++ b4 9 ++ b8 96 ++ [1, 0, 8] ++ List.replicate 45 0 ++ b8 80 ++ b4 16 ++ b4 0 ++ [1, 0, 0, 0] ++ b4 8 ++ [0, 0, 0, 0, 1, 0, 1, 0]
/-- The image is registered as 9 at 0x8000, a memory image without entries stands at 0x9000, and g5 points at a launch packet for them; g6 at one for image 8. -/
def launching : State :=
  let s := lay (lay (lay (holding [(5, 0x40), (6, 0x80)]) 0x40 (b4 0 ++ b4 9 ++ b8 0x9000)) 0x80 (b4 0 ++ b4 8 ++ b8 0x9000)) 0x8000 smallImage
  let s := lay s 0x9000 (b8 0 ++ b8 0x5000)
  { s with ost := { s.ost with images := ⟨[(9, { addr := 0x8000, len := 96, serial := 1 })]⟩ }, sec := { s.sec with ready := true } }
theorem wit_Launches : Plain launching ∧ Direct launching ∧ ((self launching).reg 5).toNat % 64 = 0 ∧ Lands launching ((self launching).reg 5) 64 .read 0x40 0 ∧
    (launching.ost.queues.getD (regionDie launching.cur.reg.toNat * 2050 + 2048) []).length < 64 ∧ launchRoom launching = true :=
  ⟨plain_of (by decide), direct_of (by decide), by decide, lands_of (by decide), by decide, by decide⟩
theorem wit_Launches_good : (checkLaunch (loadBytes (touched launching 0x40 0x40 0 64) (me launching) 0x40 64).2 (BitVec.ofNat 512 (valueAt launching 0x40 64)) (strandSpace launching (me launching)) false).reason = 0 := by
  decide +kernel
theorem wit_Launches_bad : (checkLaunch (loadBytes (touched launching 0x80 0x80 0 64) (me launching) 0x80 64).2 (BitVec.ofNat 512 (valueAt launching 0x80 64)) (strandSpace launching (me launching)) false).reason = 2 := by
  decide +kernel
theorem wit_Launches_full : ¬((({ launching with ost := { launching.ost with queues := ⟨[(2048, List.replicate 64 0), (2049, List.replicate 64 0)]⟩ } } : State).ost.queues.getD 2048 []).length < 64) := by decide
theorem wit_Launches_firmware : launching.MemOk ∧ launching.sec.ready = true ∧ launching.sec.lcs ≠ .retired ∧ launching.part = [] ∧
    (checkLaunch launching (BitVec.ofNat 512 (valueAt launching 0x40 64)) { svm := true } true).reason = 0 ∧
    (checkLaunch launching (BitVec.ofNat 512 (valueAt launching 0x80 64)) { svm := true } true).reason = 2 ∧
    (checkLaunch launching (BitVec.ofNat 512 (2 ^ 16)) { svm := true } true).reason = 1 := ⟨mem_of (by decide), by decide, by decide, rfl, by decide +kernel, by decide +kernel, by decide +kernel⟩
/-- A team waits for a counter, which stands at 5. -/
def depending (target : Word) : State := setTeam counting 2 { id := 2, state := .depwait, deps := [(0x40, target)] }
theorem wit_Launches_dependence : (depending 5).MemOk ∧ TeamAt (depending 5) 2 { id := 2, state := .depwait, deps := [(0x40, 5)] } ∧
    (∀ q ∈ [(0x40, (5 : Word))], q.2.toNat ≤ valueAt (depending 5) q.1 8) ∧ (∃ q ∈ [(0x40, (6 : Word))], valueAt (depending 6) q.1 8 < q.2.toNat) ∧
    ({ id := 2, state := .depwait, deps := [(0x40, 6)] } : Team).depsMet = false :=
  ⟨mem_of (by decide), ⟨rfl, rfl⟩, by decide, by decide, rfl⟩
/-- Strand 1 is READY, strand 2 IDLE, strand 3 as `last`; g5 holds an address, g6 an argument. -/
def starting (last : Run) : State :=
  let s := setStrand (setStrand (teamed (holding [(5, 0x40), (6, 77)])) 1 { run := .ready }) 3 { run := last }
  lay (updStrand s 2 (fun st => { st with run := if last = .idle then .idle else last, regs := regs [(30, 5), (7, 6)] })) 0x40 (b8 0x5000 ++ b8 0x6000 ++ b8 0x4000000003)
theorem wit_StrandsAndTasks_strand : Plain (starting .idle) ∧ NoLockWaits (starting .idle) ∧ Direct (starting .idle) ∧ (getStrand (starting .idle) (0 * 4 + 2)).run = .idle ∧
    ¬(getStrand (starting .idle) (0 * 4 + 1)).run = .idle ∧ (∀ n, n < 4 → n ≠ (starting .ready).cur.str.toNat → ¬(getStrand (starting .ready) (0 * 4 + n)).run = .idle) :=
  ⟨plain_of (by decide), calm_of (by decide), direct_of (by decide), by decide, by decide, by decide⟩
theorem wit_StrandsAndTasks_card : Lands (starting .idle) ((self (starting .idle)).reg 5) 64 .read 0x40 0 ∧ TeamHere (starting .idle) team1 ∧ team1.card = none ∧
    cardOf (bytesWords ((List.range 64).map (fun j => memRead (starting .idle).mem (0x40 + j))) 8) ≠ none ∧
    cardOf (bytesWords ((List.range 64).map (fun j => memRead (holding [(5, 0x40)]).mem (0x40 + j))) 8) = none := ⟨lands_of (by decide), teamHere_of rfl rfl, rfl, by decide, by decide⟩
def card0 : Card := { entry := 0x5000, args := 0x6000, rsz := 64, n := 3, remaining := 3 }
theorem wit_StrandsAndTasks_trap : Plain base ∧ Trappable base ∧ (3 : BitVec 3) ≠ 0 ∧ ((3 : BitVec 3) ≠ 2 ∨ (0 : Reg) ≠ 0) ∧ (self base).task = none :=
  ⟨plain_of (by decide), trappable_of (by decide), by decide⟩
/-- Strand 0 runs task 0 of a chunk of two. -/
def tasking : State := setTeam (updStrand base 0 (fun st => { st with task := some { rest := 1 } })) 1 { team1 with card := some card0 }
theorem wit_StrandsAndTasks_next : Plain tasking ∧ NoLockWaits tasking ∧ tasking.cur.str = 0 ∧ (self tasking).task = some { rest := 1 } ∧ startedBusy tasking 0 = false ∧
    awayLines tasking 0 = [] ∧ TeamHere tasking { team1 with card := some card0 } ∧ 0 < ({ rest := 1 } : Task).rest :=
  ⟨plain_of (by decide), calm_of (by decide), rfl, rfl, by decide, by decide, teamHere_of rfl rfl, by decide⟩
theorem wit_StrandsAndTasks_last : Plain (teamed base) ∧ (self (teamed base)).task = none ∧ TeamHere (teamed base) team1 ∧ team1.state = .running ∧ team1.card = none ∧
    (∀ i ∈ team1.strands, i ≠ me (teamed base) → (getStrand (teamed base) i).run = .idle) := ⟨plain_of (by decide), rfl, teamHere_of rfl rfl, rfl, rfl, by decide⟩
/-- Strand 0 is IDLE, and the card has tasks left. -/
def dealing (left : Nat) (jdone : Word) : State := setTeam State.reset 1 { team1 with card := some { card0 with remaining := left, jdone := jdone } }
theorem wit_StrandsAndTasks_deal : (dealing 3 0).MemOk ∧ NoLockWaits (dealing 3 0) ∧ TeamAt (dealing 3 0) 1 { team1 with card := some card0 } ∧ teamOf (dealing 3 0) 0 = some { team1 with card := some card0 } ∧
    (getStrand (dealing 3 0) (0 * 4)).run = .idle ∧ (getStrand (dealing 3 0) (0 * 4)).task = none ∧ card0.queue = [] ∧ 0 < card0.remaining ∧
    ({ index := 2, attempt := 1, dealt := true } : Retry).die = regionDie (0 : RegionId).toNat := ⟨mem_of (by decide), calm_of (by decide), ⟨rfl, rfl⟩, rfl, by decide, by decide, rfl, by decide, by decide⟩
theorem wit_StrandsAndTasks_end : (dealing 0 0x40).MemOk ∧ (dealing 0 0x40).part = [] ∧ (∀ q ∈ team1.regions, (getStrand (dealing 0 0x40) (q * 4)).task = none) ∧
    (∀ i ∈ team1.strands, (getStrand (dealing 0 0x40) i).view.stores = []) ∧ wordKey (dealing 0 0x40) (team1.space team1.svm) 0x40 = some (0x40, 0) := ⟨mem_of (by decide), rfl, by decide, by decide, rfl⟩
/-- A team of 2 by 1 regions; g5 asks for 1 by 1, g6 for 2 by 1, g7 for 1 by 2, g8 for a gait. -/
def wide (x : Nat) : Team := { id := 1, state := .running, svm := true, x := x, w := 2, h := 1 }
def releasing (r : RegionId) : State :=
  let s := setTeam (holding [(5, 0), (6, 1), (7, 8), (8, 2), (9, 3), (10, 0x0001000100200000)]) 1 (wide 0)
  { setStrand s (r.toNat * 4) (getStrand s 0) with cur := { s.cur with reg := r } }
theorem wit_ReleaseAndGait : Plain (releasing 0) ∧ NoLockWaits (releasing 0) ∧ TeamHere (releasing 0) (wide 0) ∧ (0 : Nat) ∈ rectRegions 0 0 1 1 ∧
    (wide 0).regions.filter (fun q => !(rectRegions 0 0 1 1).contains q) = [1] ∧ (∀ n, n < 4 → (getStrand (releasing 0) (1 * 4 + n)).run = .idle) ∧
    regionFlying (releasing 0) 1 1 = false := ⟨plain_of (by decide), calm_of (by decide), teamHere_of rfl rfl, by decide, by decide, by decide, by decide⟩
theorem wit_ReleaseAndGait_refused : TeamHere (releasing 1) (wide 0) ∧ (1 : Nat) ∉ rectRegions 0 0 1 1 ∧
    (wide 0).regions.filter (fun q => !(rectRegions 0 0 2 1).contains q) = [] ∧ ¬(2 ^ bitsN ((self (releasing 0)).reg 7) 3 2 ≤ (wide 0).h) ∧
    (getStrand (setStrand (releasing 0) 5 { run := .ready }) (1 * 4 + 1)).run ≠ .idle := ⟨teamHere_of rfl rfl, by decide, by decide, by decide, by decide⟩
theorem wit_ReleaseAndGait_gait : Trappable (releasing 0) ∧ bitsN ((self (releasing 0)).reg 9) 0 2 = 3 ∧ (self (releasing 0)).reg 8 = 2 ∧
    (rectOf ((self (releasing 0)).reg 5)).empty = true ∧ (rectOf ((self (releasing 0)).reg 10)).empty = false ∧ (rectOf ((self (releasing 0)).reg 10)).inTeam (wide 0) = false ∧
    (rectOf 0x0001000100000000).inTeam (wide 0) = true := ⟨trappable_of (by decide), by decide⟩
theorem wit_ReleaseAndGait_asked : (getTile (releasing 0) 0 0).gait.asked ≠ some (releasing 0).clock ∧
    (getTile (setTile (releasing 0) 0 0 { gait := { asked := some (releasing 0).clock } }) 0 0).gait.asked = some (setTile (releasing 0) 0 0 { gait := { asked := some (releasing 0).clock } }).clock := by decide

/-- g5 asks for a scan of region 3 from pattern 99 on, g6 has a reserved bit, g7 names region 0. -/
def scanning (f : Option FRun) : State := updDie (teamed (holding [(5, 0x6303), (6, 0x83), (7, 0)])) 1 (fun d => { d with farrier := f })
theorem wit_FarrierScans : Plain (scanning none) ∧ (self (scanning none)).spr.svm = true ∧ bitsN ((self (scanning none)).reg 5) 8 8 = 99 ∧ bit ((self (scanning none)).reg 5) 7 = false ∧
    regionHeld (scanning none) 3 = false ∧ regionHeld (scanning none) 0 = true ∧ (getDie (scanning none) (regionDie 3)).farrier = none ∧
    (getDie (scanning (some {})) (regionDie 3)).farrier.isSome = true ∧ bit ((self (scanning none)).reg 6) 7 = true := ⟨plain_of (by decide), by decide⟩
theorem wit_FarrierScans_user : Plain (user (scanning none)) ∧ (self (user (scanning none))).spr.svm = false ∧ Trappable (user (scanning none)) ∧ NoLockWaits (user (scanning none)) :=
  ⟨plain_of (by decide), by decide, trappable_of (by decide), calm_of (by decide)⟩
/-- A run in region 3 whose boundary clock, 0, is over at clock 1. -/
def boundary (c : Nat) (f : FRun) : State := { scanning (some f) with clock := c }
theorem wit_FarrierScans_boundary : (boundary 1 { region := 3, stop := 100 }).MemOk ∧ NoLockWaits (boundary 1 { region := 3, stop := 100 }) ∧
    (getDie (boundary 1 { region := 3, stop := 100 }) (1 : DieId).toNat).farrier = some { region := 3, stop := 100 } ∧ ({ region := 3, stop := 100 } : FRun).due < (boundary 1 {}).clock ∧
    (boundary 0 {}).clock ≤ ({ region := 3, stop := 100 } : FRun).due ∧ bitsN (getDie (boundary 1 {}) 1).fres 40 8 + 1 < 100 ∧
    ({ region := 3, pre := some 0 } : FRun).pre = some 0 ∧ 0 ≤ ({ region := 3, pre := some 0 } : FRun).due := ⟨mem_of (by decide), calm_of (by decide), by decide⟩

/-! ### Witnesses: tiles and stream commands -/

/-- Tile 3 of region 0, with a clock. -/
def tiled (t : Tile) (clock : Nat) : State := { setTile (teamed State.reset) 0 3 t with clock := clock }
theorem wit_TileSwitches_ends : (tiled { gait := { sw := some (2, 8) } } 8).MemOk ∧ (getTile (tiled { gait := { sw := some (2, 8) } } 8) 0 3).gait.sw = some (2, 8) ∧
    (getTile (tiled { csw := some (1, 8, 640) } 8) 0 3).csw = some (1, 8, 640) ∧ (getTile (tiled { gait := { sw := some (2, 8) } } 8) 0 3).fir = none ∧
    (getTile (tiled { csw := some (1, 8, 640) } 8) 0 3).fir = none := ⟨mem_of (by decide), rfl, rfl, rfl, rfl⟩
/-- A context is held by epoch 4 of the region's barrier, which is over. -/
def heldCtx : State := updRegion (tiled { gait := { cur := 2 }, ctxs := ⟨[(1, { hold := some (1, 4) })]⟩ } 0) 0 (fun g => { g with barrier := { epoch := 5 } })
theorem wit_TileSwitches_release : heldCtx.MemOk ∧ (getTile heldCtx 0 3).gait.sw = none ∧ (getTile heldCtx 0 3).ctxs.find? 1 = some { hold := some (1, 4) } ∧
    4 < (getBarrier heldCtx 0 (1 : BitVec 3).toNat).epoch := ⟨mem_of (by decide), rfl, rfl, by decide⟩
def waking : State := updDie (tiled { gait := { wake := true } } 2000) 0 (fun d => { d with wakeAt := some 0 })
theorem wit_TileSwitches_wake : (∀ c, (getDie waking 0).wakeAt = some c → c + 2000 ≤ waking.clock) ∧
    ((List.range 4).map (fun j => ((getDie waking 0).wakeLast + 1 + j) % 4)).find? (fun q => wantsWake waking (dieRegion 0 q)) = some 0 :=
  ⟨by intro c h; have : c = 0 := by simpa [waking, updDie, getDie, Assoc.put, Assoc.getD, Assoc.find?, Assoc.findIn, Assoc.putIn, tiled, setTile, teamed, setTeam, State.reset] using h.symm
      subst this; decide, by decide⟩
/-- A rectangle of one tile, tile 3. -/
def oneTile : Word := 0x0001000100000003
theorem wit_TileSwitches_switch : (rectOf oneTile).inTeam (myTeam (tiled {} 0)) = true ∧ rectTiles (myTeam (tiled {} 0)) 0 (rectOf oneTile) = [(0, 3)] ∧
    (getTile (tiled { gait := { cur := 2 } } 0) 0 3).csw = none ∧ (getTile (tiled { gait := { cur := 2 } } 0) 0 3).cswDue = none ∧
    (getTile (tiled { gait := { cur := 2 } } 0) 0 3).active ≠ (1 : BitVec 2).toNat ∧ switchesLeft (tiled {} 0) 640 = false := by decide +kernel

/-- Command 5 of region 0 begins; strand 0 issued it. -/
def beginning (s : State) : State :=
  let s := updRegion s 0 (fun g => { g with cmds := { g.cmds with seq := 9, live := [5] } })
  { updStrand s 0 (fun st => { st with cmdlog := ⟨[(5, (5, 0x10000))]⟩ }) with cur := { num := 5, queue := 2 } }
/-- The channel of port 2 and port 5, with an access pattern at 0x100 and a layout descriptor of zeros at 0x200. -/
def porting (p : Port) : State :=
  beginning (updRegion (lay (streaming []) 0x100 (b8 0x4000 ++ b8 0x0000000100020003 ++ b8 0 ++ b8 8)) 0 (fun g => { g with ports := ⟨[(2, p), (5, p)]⟩ }))
def pattern0 : Pattern := { base := 0x4000, counts := [3, 2, 1, 0, 0, 0], strides := [8, 0, 0, 0, 0, 0], lsel := 0 }
theorem wit_PortCommands : (porting {}).MemOk ∧ bitsN (0x100 : Word) 0 6 = 0 ∧ outPort (porting {}) 0 9 = none ∧ inPort (porting {}) 0 9 = none ∧
    ¬(outPort (porting {}) 0 2 = none ∧ inPort (porting {}) 0 2 = none) ∧ outPort (porting {}) 0 2 = some 3 ∧ inPort (porting {}) 0 5 ≠ none ∧ (getPort (porting {}) 0 5).pat = none ∧
    (getPort (porting {}) 0 2).eos = true ∧ (getPort (porting { eos := false }) 0 2).eos = false := ⟨mem_of (by decide), by decide +kernel⟩
def reachedB (s : State) (c : Space) (va : Word) (n : Nat) (k : Acc) : Bool :=
  s.part.isEmpty && !engineBlocked s c va n k && (match engineXl (enginePrep s c va n k) c va n k with
    | .ok ps => (badAt s ps).isNone
    | .error _ => false)
theorem reached_of {s : State} {c : Space} {va : Word} {n : Nat} {k : Acc} {ps : List Piece} (h : reachedB s c va n k = true)
    (e : engineXl (enginePrep s c va n k) c va n k = .ok ps) : Reached s c va n k ps ∧ badAt s ps = none := by
  simp only [reachedB, e, Bool.and_eq_true, List.isEmpty_iff, Bool.not_eq_true', Option.isNone_iff_eq_none] at h
  exact ⟨⟨h.1.1, h.1.2, e⟩, h.2⟩
theorem described_of {s : State} {va : Word} {n : Nat} (h : reachedB s ((myTeam s).spaceAt (myTeam s).svm s.cur.reg.toNat) va n .read = true) : ∃ bs, Described s va n bs := by
  cases he : engineXl (enginePrep s ((myTeam s).spaceAt (myTeam s).svm s.cur.reg.toNat) va n .read) ((myTeam s).spaceAt (myTeam s).svm s.cur.reg.toNat) va n .read with
  | ok ps =>
    have r := reached_of h he
    exact ⟨readPieces s ps, ps, r.1, r.2, rfl⟩
  | error e => simp [reachedB, he] at h
theorem wit_PortCommands_read : (∃ bs, Described (porting {}) 0x100 64 bs) ∧ (∃ bs, Described (porting {}) 0x200 56 bs) ∧
    patternBad (readBytes (porting {}) 0x100 64) = none ∧ patternOf (readBytes (porting {}) 0x100 64) = pattern0 ∧
    bitsN (BitVec.ofNat 64 (ofBytes ((readBytes (porting {}) 0x200 56).take 8))) 4 28 = 0 ∧ bitsN (BitVec.ofNat 64 (ofBytes ((readBytes (porting {}) 0x200 56).take 8))) 0 3 < 6 :=
  ⟨described_of (by decide), described_of (by decide), by decide, by decide, by decide, by decide⟩
theorem wit_PortCommands_mark : (2 : BitVec 4) = 2 ∧ (0 : Word) = 0 ∧ (0xFFFF : Word).toNat < 65536 ∧ (12 : Word32).toNat % Head.prl (getChan (porting {}) 3).head = 0 := by decide

/-- A FEED, or a DRAIN, of one token runs on both ports. -/
def running (drain : Bool) (buf : List Item) : State :=
  let s := porting { pat := some pattern0, pos := [0, 0, 0, 0, 0, 0], eos := false, run := some { num := 5, drain := drain, left := some 1 } }
  { s with chans := ⟨[(3, channel buf)]⟩ }
def block0 : Piece := { va := 0x4000, key := 0x4000, len := 64 }
theorem wit_PortTokens : (running false []).MemOk ∧ NoLockWaits (running false []) ∧ (getPort (running false []) 0 2).run = some { num := 5, left := some (0 + 1) } ∧
    (getPort (running false []) 0 2).park = none ∧ engineTeam (running false []) 0 = some team1 ∧ bit block0.pte 5 = false ∧ outPort (running false []) 0 2 = some 3 ∧
    Head.prl (getChan (running false []) 3).head = 1 ∧ (getPort (running false []) 0 2).part = [] ∧
    Reached (running false []) (team1.spaceAt team1.svm 0) ((getPort (running false []) 0 2).block 0) 64 .read [block0] ∧ badAt (running false []) [block0] = none :=
  ⟨mem_of (by decide), calm_of (by decide), by decide, by decide, rfl, by decide, by decide, by decide, by decide, reached_of (by decide) rfl⟩
theorem wit_PortTokens_drain : inPort (running true [{ toks := [token] }]) 0 5 = some (3, 0) ∧ (getBranch (running true [{ toks := [token] }]) 3 0).seen (running true [{ toks := [token] }]).clock = .record { toks := [token] } ∧
    (getPort (running true [{ toks := [token] }]) 0 5).place = 0 ∧
    Reached (running true [{ toks := [token] }]) (team1.spaceAt team1.svm 0) ((getPort (running true [{ toks := [token] }]) 0 5).block 0) 64 .write [block0] ∧
    (getBranch (running true [{ mark := true, toks := [markTok 2 0] }]) 3 0).seen (running true [{ mark := true, toks := [markTok 2 0] }]).clock = .mark (markTok 2 0) ∧ (markTok 2 0).mtype = 2 :=
  ⟨by decide, rfl, by decide, (reached_of (by decide) rfl).1, rfl, by decide +kernel⟩
/-- Context 1 of tile 3 holds an actor of section 2. -/
def sectioned : State := beginning (tiled { ctxs := ⟨[(1, { actors := ⟨[(0, { hdr := 2 <<< 29 })]⟩ })]⟩ } 4)
theorem wit_SectionCommands : sectioned.MemOk ∧ sectActors sectioned 0 1 2 ≠ [] ∧ sectActors sectioned 0 0 2 = [] ∧ (rectOf oneTile).inTeam (myTeam sectioned) = true ∧
    (getTile sectioned 0 3).ctxs.find? (1 : BitVec 2).toNat = some { actors := ⟨[(0, { hdr := 2 <<< 29 })]⟩ } ∧
    sectioned.tiles.cells.any (fun k => k.1 / 256 == 0 && (k.2.ctxs.find? 1).isSome) = true := ⟨mem_of (by decide), by decide, by decide, by decide, rfl, by decide⟩

/-- Channel 3 with a branch word of depth 2, and a SHED descriptor of zeros with its mark at 0x200. -/
def branching (spocc : Nat) (pol : BitVec 256) : State :=
  let s := porting {}
  { lay s 0x218 (b8 (2 ^ 6)) with chans := ⟨[(3, { channel [] with branches := [{ word := (1 <<< 219) ||| (1 <<< 198) ||| (pol <<< 216) ||| (1 <<< 121), kind := 1, port := 5, st := { spocc := spocc } }] })]⟩ }
theorem wit_BranchCommands : (let s := branching 0 0
    ∃ c b, s.MemOk ∧ s.chans.find? (3 : Chid).toNat = some c ∧ c.live = true ∧ c.team = (myTeam s).id ∧ c.branches[0]? = some b ∧
      branchOk (applyShed b.word (setBits b.word 188 31 (2 ^ 10))) = true ∧ branchOk (applyShed b.word (setBits b.word 188 31 (7 * 2 ^ 28 + 2 ^ 10))) = false ∧
      branchOk (coupleWord b.word ((0 : BitVec 41).setWidth 64)) = true ∧ branchOk (coupleWord b.word ((1 : BitVec 41).setWidth 64)) = false ∧ s.chans.find? (4 : Chid).toNat = none) :=
  ⟨_, _, mem_of (by decide), rfl, rfl, rfl, rfl, by decide +kernel⟩
theorem wit_BranchCommands_more : (∃ bs, Described (branching 0 0) 0x200 32 bs) ∧ bitsN (0x200 : Word) 0 5 = 0 ∧ bitsN (2 ^ 10 : Word) 31 33 = 0 ∧
    Br.pol (getBranch (branching 1 1) 3 0).word = 1 ∧ Br.pol (applyShed (getBranch (branching 1 1) 3 0).word (setBits (getBranch (branching 1 1) 3 0).word 188 31 (2 ^ 10))) ≠ 1 ∧
    (getBranch (branching 1 1) 3 0).st.spocc ≠ 0 ∧ (getBranch (branching 1 1) 3 0).shedTag = 0 :=
  ⟨described_of (by decide), by decide, by decide, by decide +kernel, by decide +kernel, by decide, by decide⟩
theorem wit_BranchCommands_reins : (let s := branching 0 0
    reinsBad (teamCoupled (updBranch s 3 0 (fun b => { b with word := coupleWord b.word 0, lastNum := 5 })) 1) = none) := by decide +kernel

/-! ### Witnesses: tables, pre-emption, teams, the Ostler -/

/-- Command 5 begins for team 1; the image of `launching` is registered. A template, a tree and a watch filter stand at 0x200, 0x300 and 0x400, all zeros where they may be. -/
def tabling : State :=
  let s := setTeam (beginning launching) 1 { team1 with tmpl := ⟨[(3, [])]⟩ }
  let s := lay (lay s 0x210 (b8 0x0001000100010001 ++ b8 0x0001000100010001)) 0x300 (b8 0x8000 ++ b8 0x80)
  lay s 0x400 (b8 (2 ^ 63 + 0x41) ++ b8 1)
theorem wit_TableCommands_cfg : tabling.MemOk ∧ TeamHere tabling { team1 with tmpl := ⟨[(3, [])]⟩ } ∧ (rectOf (0x0001001100000000 : Word)).inTeam team1 = false ∧
    (rectOf 0x0001001100000000).empty = false ∧ (rectOf 0).empty = true ∧ cfgImage tabling team1 8 = none ∧ cfgImage tabling team1 9 = some { addr := 0x8000, len := 96, serial := 1 } ∧
    NoLockWaits tabling := ⟨mem_of (by decide +kernel), teamHere_of rfl rfl, by decide, by decide, by decide, rfl, rfl, calm_of (by decide)⟩
theorem wit_TableCommands_image : (match cacheFetch tabling 0 { addr := 0x8000, len := 96, serial := 1 } imageReads with
    | some x => (match readImage x.1 with
      | .ok m => (checkImage x.2 team1 0 (some ⟨0, 0, 16, 16⟩) m).isNone
      | .error _ => false)
    | none => false) = true ∧ (match cacheFetch tabling 0 { addr := 0x8001, len := 96, serial := 1 } imageReads with
    | some x => (match readImage x.1 with
      | .ok _ => false
      | .error d => d == 0)
    | none => false) = true := by decide +kernel
theorem wit_TableCommands_tmpl : (∃ bs, Described tabling 0x200 128 bs) ∧ tmplBad (bytesWords (readBytes tabling 0x200 128) 16) = none ∧
    tmplBad (bytesWords (readBytes tabling 0x280 128) 16) = some 2 := ⟨described_of (by decide), by decide +kernel, by decide +kernel⟩
theorem wit_TableCommands_tree : (∃ bs, Described tabling 0x300 (16 * ((0 : BitVec 7).toNat + 1)) bs) ∧ treeBad (tablePairs (readBytes tabling 0x300 16) 1) = none ∧
    treeBad (tablePairs (readBytes tabling 0x400 16) 1) ≠ none ∧ (∀ k ∈ (tablePairs (readBytes tabling 0x300 16) 1).map (fun e => treeEntry e.1 e.2), team1.holds k.reg.toNat = true) ∧
    tabling.trees.find? 0 = none ∧ (∃ k ∈ [treeEntry 0x8001 0x80], team1.holds k.reg.toNat = false) ∧ (∃ bs, Described tabling 0x400 16 bs) :=
  ⟨described_of (by decide), by decide +kernel, by decide +kernel, by decide +kernel, by decide, by decide, described_of (by decide)⟩
/-- Port 4, channel 1 and actor 0 of context 1 of tile 3 are parked. -/
def parked : State :=
  let s := updRegion tabling 0 (fun g => { g with ports := ⟨[(4, { park := some {} })]⟩, carters := ⟨[(1, { cur := some { park := some {} } })]⟩ })
  setTile s 0 3 { ctxs := ⟨[(1, { actors := ⟨[(0, { park := some {} })]⟩ })]⟩ }
theorem wit_TableCommands_resume : bitsN (0x0060000000040000 : Word) 53 3 = 3 ∧ bitsN (0x0040000000010000 : Word) 53 3 = 2 ∧ bitsN (0x0020000003400000 : Word) 53 3 = 1 ∧
    bitsN (0x0020000003400000 : Word) 24 8 = 3 ∧ bitsN (0x0020000003400000 : Word) 22 2 = 1 ∧ team1.holds (bitsN (0x0020000003400000 : Word) 32 7) = true ∧
    bitsN (0x0020000003400000 : Word) 39 12 = team1.atag ∧ team1.holds (bitsN (0x0000000100000000 : Word) 32 7) = false ∧
    (getCarter parked 0 1).cur = some { park := some {} } ∧ ((getTile parked 0 3).ctxs.getD 1 {}).actors.find? 0 = some { park := some {} } := by decide

/-- Team 2 in a state, beside team 1, whose command begins. -/
def leaving (v : Team) : State := { beginning (setTeam (teamed base) 2 v) with clock := 100000000 }
def saving2 (l : Leave) : Team := { id := 2, state := .saving, svm := true, x := 1, leave := l }
theorem teamAt_of {s : State} {id : TeamId} {v : Team} (h : s.teams.find? id.toNat = some v) (h2 : v.id = id.toNat) : TeamAt s id v := ⟨h, h2⟩
theorem wit_PreemptionCommands : (leaving (saving2 {})).MemOk ∧ TeamAt (leaving (saving2 {})) 2 (saving2 {}) ∧ (saving2 {}).state = .saving ∧ (saving2 {}).leave.quiet = false ∧
    (saving2 {}).leave.quiesceNum = none ∧ (saving2 {}).leave.thermal = false ∧ ({} : Team).state ≠ .saving ∧ ({} : Team).state ≠ .saved ∧
    bitsN (1 : Word) 0 (64 - 0) ≠ 0 ∧ bitsN (0x10000 : Word) 16 (64 - 16) ≠ 0 ∧ bitsN (32 : Word) 0 (6 - 0) ≠ 0 := ⟨mem_of (by decide), teamAt_of rfl rfl, by decide⟩
theorem wit_PreemptionCommands_strand : (let s := setStrand (leaving (saving2 {})) 4 { run := .ready }
    4 ∈ (saving2 {}).strands ∧ (getStrand s 4).run = .ready ∧ (getStrand s 4).hold = none ∧ (getStrand s 4).sent = [] ∧ (getStrand s 4).traps.due = none ∧
    (getStrand s (4 / 4 * 4)).task = none) := by decide
/-- A team that is LOADING from its save image. -/
def restored2 : Team := { id := 2, state := .loading, svm := true, x := 1, leave := { restoring := true, restoreNum := some (5, 0) } }
theorem wit_PreemptionCommands_loading : TeamAt (leaving restored2) 2 restored2 ∧ restored2.state = .loading ∧ restored2.leave.restoring = true ∧ gaitsSettled (leaving restored2) restored2 = true ∧
    gaitsSettled (setTile (leaving restored2) 1 0 { gait := { wake := true } }) restored2 = false := ⟨teamAt_of rfl rfl, by decide⟩
theorem wit_PreemptionCommands_quiet : quiescent (leaving (saving2 { closed := true, quiesceNum := some (5, 0) })) (saving2 { closed := true, quiesceNum := some (5, 0) }) = true ∧
    drained (leaving { saving2 { closed := true } with flying := 1 }) { saving2 { closed := true } with flying := 1 } true = false ∧
    ({ saving2 { closed := true } with flying := 1 } : Team).leave.began + ({ saving2 { closed := true } with flying := 1 } : Team).leave.limit ≤ (leaving (saving2 {})).clock := by decide
/-- A team without regions left. -/
theorem wit_PreemptionCommands_save : (doSave (leaving { saving2 { closed := true, quiet := true } with w := 0 }) 2 (team1.spaceAt true 0) 0x100000).isSome = true := rfl
theorem getBytes_of (s : State) (k : Nat) (bs : List Byte) (h : s.wlog = []) (hm : ∀ a, memRead s.mem a = if k ≤ a ∧ a < k + bs.length then bs.getD (a - k) 0 else 0) :
    ∀ n off, off + n ≤ bs.length → n + off ≤ 64 → getBytes s [k] off n = (bs.drop off).take n := by
  intro n
  induction n with
  | zero => intro off _ _; simp [getBytes]
  | succ n ih =>
    intro off h1 h2
    have e : readByte s (areaKey [k] off) = bs[off]'(by omega) := by
      have ha : areaKey [k] off = k + off := by simp [areaKey, Nat.div_eq_of_lt (show off < 64 by omega), Nat.mod_eq_of_lt (show off < 64 by omega)]
      rw [ha, readByte, h]
      simp only [logFind]
      rw [hm, if_pos ⟨by omega, by omega⟩]
      simp [show off < bs.length by omega]
    rw [getBytes, e, ih (off + 1) (by omega) (by omega), List.drop_eq_getElem_cons (show off < bs.length by omega), List.take_succ_cons]
/-- A team whose save image is a header alone, in the area at 0x100000; its regions are held for it. -/
def saved2 : Team := { id := 2, state := .saved, svm := true, x := 1, leave := { saved := true, len := 64, area := 0x100000 } }
def emptyDigest : List Byte := Shake.shake256 [] 32
def savedHeader : List Byte := wordsBytes (headerWords saved2 64 false emptyDigest)
def restoring : State :=
  let s := leaving saved2
  { s with mem := memCommit [] (logBytes [] 0x100000 savedHeader), saves := ⟨[(2, { digest := emptyDigest })]⟩, ost := { s.ost with holds := [(1, 0, 1, 1, 2)] } }
theorem wit_PreemptionCommands_restore : restoring.MemOk ∧ TeamAt restoring 2 saved2 ∧ regionsHeldFor restoring saved2 = true ∧ (doRestore restoring 2 (team1.spaceAt true 0) 0x100000 (some (5, 0))).isSome = true := by
  have wf : Memory.wf restoring.mem = true := memCommit_wf [] _ rfl
  refine ⟨⟨wf, rfl⟩, teamAt_of rfl rfl, rfl, ?_⟩
  have hl : savedHeader.length = 64 := by simp [savedHeader, wordsBytes, headerWords, toBytes, bytesWords]
  have hm : ∀ a, memRead restoring.mem a = if 0x100000 ≤ a ∧ a < 0x100000 + savedHeader.length then savedHeader.getD (a - 0x100000) 0 else 0 := by
    intro a
    show memRead (memCommit [] (logBytes [] 0x100000 savedHeader)) a = _
    rw [memRead_memCommit _ _ _ rfl, logFind_logBytes]
    split
    · exact Option.getD_some
    · rfl
  have get (off n : Nat) (h : off + n ≤ 64) : getBytes restoring [0x100000] off n = (savedHeader.drop off).take n :=
    getBytes_of restoring 0x100000 savedHeader rfl hm n off (by omega) (by omega)
  have hk : areaKeys restoring (team1.spaceAt true 0) 0x100000 64 .read = some [0x100000] := rfl
  have hn : imageLen restoring (team1.spaceAt true 0) 0x100000 = some 64 := by
    rw [imageLen, hk, Option.map_some, get 8 8 (by omega)]
    simp [savedHeader, wordsBytes, headerWords, toBytes, bytesWords, ofBytes]
  have hw : imageWhole restoring [0x100000] 64 = true := by
    rw [imageWhole, get 0 8 (by omega), get 32 32 (by omega)]
    simp [savedHeader, wordsBytes, headerWords, toBytes, bytesWords, getBytes, emptyDigest]
    decide +kernel
  unfold doRestore
  simp only [hn, hk, hw]
  rfl

theorem wit_TeamEnds_kill : (leaving (saving2 {})).MemOk ∧ (leaving (saving2 {})).teams.find? (3 : TeamId).toNat = none ∧
    TeamAt (leaving { saving2 {} with state := .killed }) 2 { saving2 {} with state := .killed } := ⟨mem_of (by decide), rfl, teamAt_of rfl rfl⟩
theorem wit_TeamEnds_complete : killDrained (leaving { saving2 {} with state := .killed }) { saving2 {} with state := .killed } = true ∧
    killDrained (leaving { saving2 {} with state := .killed, flying := 1 }) { saving2 {} with state := .killed, flying := 1 } = false ∧
    landed (leaving { saving2 {} with state := .retiring, cdone := 0x40 }) { saving2 {} with state := .retiring, cdone := 0x40 } = true ∧
    (leaving { saving2 {} with state := .retiring, cdone := 0x40 }).tiles.cells.any (fun c => (saving2 {}).regions.contains (c.1 / 256) && c.2.fir.isSome) = false ∧
    wordKey (leaving (saving2 {})) ((saving2 {}).space true) 0x40 = some (0x40, 0) ∧ NoLockWaits (leaving (saving2 {})) :=
  ⟨by decide, by decide, by decide, by decide, rfl, calm_of (by decide)⟩
/-- One QUEUED team that asks for the registered image. -/
def queuedTeam : Team := { id := 7, state := .queued, cfgid := 9, mimg := 0x9000, image := { addr := 0x8000, len := 96, serial := 1 }, port := 2048 }
def queued4 : Team := { queuedTeam with w := 4, h := 4 }
def selecting : State := { launching with teams := ⟨[(7, queued4)]⟩, ost := { launching.ost with queues := ⟨[(2048, [7])]⟩ } }
theorem wit_OstlerWork_selection : selecting.MemOk ∧ selecting.teams.cells = [(queued4.id, queued4)] ∧ queued4.w * queued4.h ≤ 16 ∧ selecting.host.ports.cells = [] ∧
    selecting.ost.holds = [] ∧ selecting.ost.queues.cells = [(queued4.port, [queued4.id])] ∧ selecting.sec.lcs ≠ .retired ∧ tagReady selecting queued4 = true ∧
    choosePlace selecting queued4 = some (0, 0, 4, 4) := ⟨mem_of (by decide), rfl, by decide, rfl, rfl, rfl, by decide, by decide +kernel, by decide +kernel⟩
def loading (h : Option Nat) : State := { launching with teams := ⟨[(7, { queuedTeam with state := .loading, hitch := h })]⟩ }
def Loaded.isDone : Loaded → Bool
  | .done _ => true
  | _ => false
theorem done_of {x : Loaded} (h : Loaded.isDone x = true) : ∃ s, x = .done s := by
  cases x with
  | done s => exact ⟨s, rfl⟩
  | _ => simp [Loaded.isDone] at h
theorem wit_OstlerWork_load : (loading none).MemOk ∧ NoLockWaits (loading none) ∧ TeamAt (loading none) 7 { queuedTeam with state := .loading } ∧
    (∃ s', loadTeam (loading none) 7 0x10000 0 0x1000 = .done s') ∧
    (0x10000 : Word).toNat % 65536 = 0 ∧ (0x10000 : Word).toNat < 2 ^ 41 ∧ (0 : Word).toNat % 2 ^ 45 = 0 ∧ (0x1000 : Word).toNat % 4096 = 0 ∧ (loading none).sec.lcs ≠ .retired ∧
    queuedTeam.leave.restoring = false ∧ queuedTeam.imageReady = false :=
  ⟨mem_of (by decide), calm_of (by decide), teamAt_of rfl rfl, done_of (by decide +kernel), by decide⟩
/-- The bytes of its image are no image. -/
theorem wit_OstlerWork_refused : (match loadTeam (setTeam (loading none) 7 { queuedTeam with state := .loading, image := { queuedTeam.image with addr := 0x8001 } }) 7 0x10000 0 0x1000 with
    | .refused why _ => why
    | _ => 0) = 3 := by decide +kernel
/-- The loaded team waits for its tiles, or may start; as a member of hitch 4 it says so. -/
def settling (wake : Bool) (h : Option Nat) : State :=
  let s := setTile (setTeam base 7 { queuedTeam with state := .loading, imageReady := true, hitch := h }) 0 0 { gait := { wake := wake } }
  { s with ost := { s.ost with hitches := ⟨[(4, { members := [0, 1] })]⟩ } }
theorem wit_OstlerWork_start : (settling false none).MemOk ∧ TeamAt (settling false none) 7 { queuedTeam with state := .loading, imageReady := true } ∧
    gaitsSettled (settling false none) { queuedTeam with state := .loading, imageReady := true } = true ∧
    gaitsSettled (settling true none) { queuedTeam with state := .loading, imageReady := true } = false ∧
    TeamAt (settling false (some 4)) 7 { queuedTeam with state := .loading, imageReady := true, hitch := some 4 } ∧
    (settling false (some 4)).ost.hitches.find? 4 = some { members := [0, 1] } ∧ ({ members := [0, 1] } : Hitch).said = false :=
  ⟨mem_of (by decide), teamAt_of rfl rfl, by decide, by decide, teamAt_of rfl rfl, rfl, rfl⟩
theorem wit_OstlerWork_fetch : selecting.MemOk ∧ (∀ t ∈ selecting.teams.vals, t.state ≠ .loading) ∧ selecting.ost.images.find? (9 : Word32).toNat = some { addr := 0x8000, len := 96, serial := 1 } ∧
    (selecting.ost.caches.getD 0 []).length < 64 ∧ (selecting.ost.caches.getD 0 []).find? (fun e => e.1 == 1) = none ∧
    imageReads ((List.range 96).map (fun k => memRead selecting.mem (hbmKey (modN selecting) 0x8000 + k))) = true ∧
    imageReads ((List.range 96).map (fun k => memRead selecting.mem (hbmKey (modN selecting) 0x8001 + k))) = false :=
  ⟨mem_of (by decide), by decide, rfl, by decide, rfl, by decide +kernel, by decide +kernel⟩

/-- Hitch 4 with members 0 and 1 and a team that is LOADING. -/
def hitched (x : Hitch) (v : Team) : State :=
  let s := setTeam base 2 v
  { s with ost := { s.ost with hitches := ⟨[(4, x)]⟩ }, fab := { s.fab with modId := 1 } }
def member2 : Team := { id := 2, state := .loading, imageReady := true, hitch := some 4 }
def gate : Hitch := { members := [0, 1], t := some 0, team := some 2, ready := [0] }
theorem wit_Hitches : (hitched gate member2).MemOk ∧ (hitched gate member2).ost.hitches.find? (4 : Half).toNat = some gate ∧ gate.t = some 0 ∧ gate.startedAt = false ∧ gate.said = false ∧
    memberReady (hitched gate member2) gate = true ∧ memberReady (hitched { gate with team := none } member2) { gate with team := none } = false ∧
    0 ≤ wallNow (hitched gate member2) ∧ (∀ m ∈ gate.members, m ≠ modN (hitched gate member2) → m ∈ gate.ready) ∧
    (hitched gate member2).teams.find? 2 = some member2 := ⟨mem_of (by decide), rfl, rfl, rfl, rfl, rfl, rfl, by decide, by decide, rfl⟩
theorem wit_Hitches_set : (let ids := (([0, 1] : List ModId).map BitVec.toNat).eraseDups; 2 ≤ ids.length ∧ ids.length ≤ 64) ∧ (100 : Half).toNat = 100 ∧
    ¬(2 ≤ (([0, 0] : List ModId).map BitVec.toNat).eraseDups.length) := by decide
theorem wit_Hitches_gate : isCoordinator (hitched { gate with team := none } { member2 with state := .queued }) 4 = false ∧
    memberOf (hitched { gate with team := none } { member2 with state := .retired }) 4 = none := ⟨by decide, rfl⟩
theorem wit_Hitches_running : (hitched gate { member2 with state := .running }).teams.vals.find? (fun t => t.hitch == some 4 && t.state == .running) = some { member2 with state := .running } ∧
    savedCount (hitched gate { member2 with state := .running }) < 256 ∧ (hitched gate member2).sec.lcs ≠ .retired ∧
    ({ gate with late := [1], team := none } : Hitch).late = [] ++ [1] ∧ gate.displaced = [] := ⟨rfl, by decide, by decide, rfl, rfl⟩

/-! ### Witnesses: Carters, walks, the fabric -/

/-- A template of n FP32 elements, by default from 0x4000 to 0x5000; its counter and flags. -/
def template (n : Nat) (src caddr flags : Word) : List Word := [src, 0x5000, BitVec.ofNat 64 (0x0001000100010000 + n), BitVec.ofNat 64 (0x0001000100010000 + n), 0, 0, 0, 0, caddr, 3, flags, 0, 0, 0, 0, 0]
/-- Channel 2 of region 0 in a state of team 1. -/
def copying (k : Carter) (v : Team) : State :=
  let s := lay (setTeam (updRegion base 0 (fun g => { g with cmds := { g.cmds with live := [5] }, carters := ⟨[(2, k)]⟩ })) 1 v) 0x4000 [1, 2, 3]
  lay s 0x40 [7]
def copyOf (t : List Word) (issued : Nat) : Copy := { start := { num := 5 }, tmpl := t, issued := issued }
theorem wit_CarterCopies_begin : (copying { queue := [{ word := 3, num := 5 }] } team1).MemOk ∧ NoLockWaits (copying { queue := [{ word := 3, num := 5 }] } team1) ∧
    (copying { queue := [{ word := 3, num := 5 }] } team1).part = [] ∧
    engineTeam (copying { queue := [{ word := 3, num := 5 }] } team1) 0 = some team1 ∧ team1.leave.closed = false := ⟨mem_of (by decide), calm_of (by decide), rfl, rfl, rfl⟩
theorem wit_CarterCopies_suspend : (let v := { team1 with leave := { closed := true } }
    let x := copyOf (template 32 0x4000 0 0) 0
    engineTeam (copying { cur := some x } v) 0 = some v ∧ x.issued < Tp.bytes x.tmpl ∧ mustSuspend v x = true ∧ x.flying = [] ∧ x.park = none) := ⟨rfl, by decide, by decide, rfl, rfl⟩
/-- What a line of a copy from the 64th byte on reads and writes; `far` is a slice address of another module. -/
def lineWit (t : List Word) (here : Bool) : Bool :=
  let x := copyOf t 64
  let v := { team1 with slicebase := 0x200000000000 }
  let s := copying { cur := some x } v
  let sp := v.spaceAt true 0
  let off := x.start.word >>> 16
  let n := lineElems x.tmpl off 16 (Tp.total x.tmpl 3) 0 0 64
  let vas (cw : Nat) : List Word := (List.range n).map (fun j => Tp.addr x.tmpl cw off (16 + j))
  let u1 := (vas 2).foldl (fun s va => enginePrep s sp va (Tp.size (Tp.sfmt x.tmpl)) .read) s
  let u := (vas 3).foldl (fun s va => enginePrep s sp va 4 .write) u1
  !mustSuspend v x && (vas 2).all (fun va => !engineBlocked s sp va (Tp.size (Tp.sfmt x.tmpl)) .read) && (vas 3).all (fun va => !engineBlocked u1 sp va 4 .write) && n == 16 &&
  (match elemPieces u sp x.tmpl 2 off 16 .read n, elemPieces u sp x.tmpl 3 off 16 .write n with
    | .ok src, .ok dst => (badAt s src).isNone && (src ++ dst).all (fun p => !bit p.pte 5) && dst.all (fun p => (p.key / 2 ^ 48 == modN s) == here) && !dst.isEmpty
    | _, _ => false)
theorem wit_CarterCopies_line : lineWit (template 32 0x4000 0 0) true = true := by decide +kernel
theorem wit_CarterCopies_fault : (let x := copyOf (template 32 0x0100000000000000 0 (2 ^ 14)) 64
    let s := copying { cur := some x } team1
    (match elemPieces s (team1.spaceAt true 0) x.tmpl 2 (x.start.word >>> 16) 16 .read (lineElems x.tmpl (x.start.word >>> 16) 16 (Tp.total x.tmpl 3) 0 0 64) with
      | .error _ => true
      | .ok _ => false) = true ∧ Tp.suspendable x.tmpl = true ∧ Tp.suspendable (template 32 0x0100000000000000 0 0) = false) := by decide +kernel
theorem wit_CarterCopies_complete : (let x := copyOf (template 32 0x4000 0x40 0) 128
    let s := copying { cur := some x } team1
    Tp.bytes x.tmpl ≤ x.issued ∧ x.adding = false ∧ x.denied = false ∧ Tp.word x.tmpl 8 ≠ 0 ∧ (Tp.word x.tmpl 8).toNat % 8 = 0 ∧
    Reached s (team1.spaceAt true 0) (Tp.word x.tmpl 8) 8 .atomic [{ va := 0x40, key := 0x40, len := 8 }] ∧ badAt s [{ va := 0x40, key := 0x40, len := 8 }] = none ∧
    0x40 / 2 ^ 48 = modN s ∧ Tp.word (template 32 0x4000 0 0) 8 = 0) :=
  ⟨by decide, rfl, rfl, by decide, by decide, (reached_of (by decide) rfl).1, by decide, by decide, by decide⟩
/-- A table walk of tag 5 is under way; the root at 0x10000 holds one leaf of level 1 by way of one table. -/
def walking5 (root : List Byte) : State :=
  let s := lay (setTeam base 1 { team1 with atag := 5, root := 0x10000 }) 0x10000 root
  let s := lay s 0x20000 (b8 0x101F)
  { updStrand s 1 (fun st => { st with run := .ready, hold := some (.walk 5 0) }) with trans := { s.trans with walks := [{ tag := 5, page := 0 }] } }
theorem wit_WalksAndInvalidation : (walking5 (b8 0x20001)).MemOk ∧
    (walking5 (b8 0x20001)).trans.walks.find? (fun w => w.tag == (5 : Atag).toNat && w.page == (0 : Word).toNat / 65536 && Machine.walking (walking5 (b8 0x20001)) w) = some { tag := 5, page := 0 } ∧
    teamOfTag (walking5 (b8 0x20001)) 5 = some { team1 with atag := 5, root := 0x10000 } ∧ walkTable (walking5 (b8 0x20001)) 0x10000 0 = .ok (0x101F, 1) ∧
    walkTable (walking5 []) 0x10000 0 = .error (false, 0) ∧ (getStrand (walking5 []) 1).hold = some (.walk 5 0) ∧ regionDie (1 / 4) = ({ tag := 5, page := 0 } : Walk).die :=
  ⟨mem_of (by decide), by decide, rfl, by decide, by decide, rfl, by decide⟩
theorem wit_WalksAndInvalidation_noTeam : teamOfTag (walking5 []) 6 = none := rfl
/-- TLBINV waits for no walk any more. -/
def invalidating : State := { pending1 with trans := { tlb := ⟨[(0, [{ tag := 5, page := 3 }, { tag := 6, page := 3 }])]⟩, inval := [(5, 0x30000, 0x30000, [])] } }
theorem wit_WalksAndInvalidation_inval : invalidating.MemOk ∧ invalidating.trans.inval = (5, 0x30000, 0x30000, []) :: [] := ⟨mem_of (by decide), rfl⟩

/-- One packet is under way, with its payload. -/
def carrying (hdr : BitVec 128) (addr : Line) (pay : List Line) : State :=
  let s := setIPort (teamed base) 1 { desc := (1 <<< 47) ||| (1 <<< 48) ||| (3 <<< 43) ||| (0x1000 <<< 192) ||| (0x900 <<< 128) }
  { s with fab := { s.fab with inbound := [{ hdr := hdr, addr := addr, pay := pay }], written := true } }
def c0Hdr (tgt smod : Nat) : BitVec 128 := mkHdr 0 0 tgt smod 0 0 0 0 1 0
theorem wit_PacketsLand_c0 : (carrying (c0Hdr 1 0) 0 [9]).MemOk ∧ NoLockWaits (carrying (c0Hdr 1 0) 0 [9]) ∧ Here (carrying (c0Hdr 1 3) 0 [9]) 0 { hdr := c0Hdr 1 3, pay := [9] } 0 ∧
    inSeq (carrying (c0Hdr 1 0) 0 [9]) { hdr := c0Hdr 1 0, pay := [9] } = true ∧ inSeq (carrying (c0Hdr 1 0) 0 [9]) { hdr := mkHdr 0 0 1 0 0 0 0 7 1 0 } = false ∧
    Pd.loc (getIPort (carrying (c0Hdr 1 0) 0 [9]) 1).desc = true ∧ Pd.mode (getIPort (carrying (c0Hdr 1 0) 0 [9]) 1).desc = 3 ∧ Pd.loc (getIPort (carrying (c0Hdr 2 0) 0 [9]) 2).desc = false :=
  ⟨mem_of (by decide), calm_of (by decide), ⟨rfl, by decide +kernel⟩, by decide +kernel, by decide +kernel, by decide +kernel, by decide +kernel, by decide +kernel⟩
def c1Hdr : BitVec 128 := mkHdr 0 0 0 3 0 1 0 0 1 0
def c3Hdr (op : Nat) : BitVec 128 := mkHdr 0 0 0 3 0 3 0 0 1 (op * 2 ^ 26)
def c4Hdr (carter : Nat) : BitVec 128 := mkHdr 0 0 0 3 0 4 0 0 1 (carter * 2 ^ 30)
theorem wit_PacketsLand_lines : Here (carrying c1Hdr 0x4000 [9]) 0 { hdr := c1Hdr, addr := 0x4000, pay := [9] } 1 ∧ packetKey (carrying c1Hdr 0x4000 [9]) (packetAddr { addr := 0x4000 }) = some 0x4000 ∧
    packetKey base (packetAddr { addr := 0x20000000000 }) = none := ⟨⟨rfl, by decide +kernel⟩, by decide +kernel, by decide +kernel⟩
theorem wit_PacketsLand_atomic : Here (carrying (c3Hdr 0) 0x4000 [9]) 0 { hdr := c3Hdr 0, addr := 0x4000, pay := [9] } 3 ∧ inSeq (carrying (c3Hdr 0) 0x4000 [9]) { hdr := c3Hdr 0 } = true ∧
    bitsN (c3Hdr 8) 26 5 = 8 ∧ bitsN (c3Hdr 0) 24 2 ≤ 1 ∧ 8 < bitsN (c3Hdr 9) 26 5 ∧ Here (carrying (c3Hdr 9) 0x4000 [9]) 0 { hdr := c3Hdr 9, addr := 0x4000, pay := [9] } 3 :=
  ⟨⟨rfl, by decide +kernel⟩, by decide +kernel, by decide +kernel, by decide +kernel, by decide +kernel, ⟨rfl, by decide +kernel⟩⟩
theorem wit_PacketsLand_c4 : Here (carrying (c4Hdr 1) 0x4000 [9]) 0 { hdr := c4Hdr 1, addr := 0x4000, pay := [9] } 4 ∧ Hp.carter { hdr := c4Hdr 1 } = true ∧
    Here (carrying (c4Hdr 0) 0 [9]) 0 { hdr := c4Hdr 0, pay := [9] } 4 ∧ Hp.carter { hdr := c4Hdr 0 } = false ∧ (carrying (c4Hdr 0) 0 [9]).chans.find? 0 = none ∧
    (let s (b : Branch) : State := { carrying (c4Hdr 0) 0 [] with chans := ⟨[(0, { live := true, branches := [b] })]⟩ }
    Here (s {}) 0 { hdr := c4Hdr 0, addr := 0, pay := [] } 4 ∧ ({ stage := 0 } : Branch).mayAct (s {}).clock 3 = true ∧ ({ stage := 4 } : Branch).mayAct (s {}).clock 3 = false ∧
    bitsN (0 : Line) 0 48 < ({ expSeq := 1 } : Branch).expSeq) :=
  ⟨⟨rfl, by decide +kernel⟩, by decide +kernel, ⟨rfl, by decide +kernel⟩, by decide +kernel, rfl, ⟨rfl, by decide +kernel⟩, by decide +kernel, by decide +kernel, by decide +kernel⟩

/-- Link 2 carries, and module 3 lies behind it. -/
def linked (hdr : BitVec 128) (die : Bool) : State :=
  let s := carrying hdr 0x4000 [9]
  { s with fab := { s.fab with links := ⟨[(2, { en := true, st := 2, lanes := 15 })]⟩, routes := ⟨[(3, { valid := true, primary := 2 })]⟩
                               inbound := s.fab.inbound.map (fun p => { p with left := die }) } }
theorem wit_PacketsForwarded : (linked (mkHdr 3 0 0 0 0 1 0 0 1 0) false).MemOk ∧ (linked c1Hdr false).fab.written = true ∧ (linked c1Hdr false).fab.inbound[0]? = some { hdr := c1Hdr, addr := 0x4000, pay := [9] } ∧
    ({ hdr := mkHdr 3 0 0 0 0 1 0 0 1 0 } : Packet).bad = false ∧ Hp.dmod { hdr := mkHdr 3 0 0 0 0 1 0 0 1 0 } = 3 ∧ Hp.hops { hdr := mkHdr 3 0 0 0 0 1 0 0 1 0 } ≠ 0 ∧
    pickLink (linked (mkHdr 3 0 0 0 0 1 0 0 1 0) false) { hdr := mkHdr 3 0 0 0 0 1 0 0 1 0 } { valid := true, primary := 2 } = some 2 ∧ ({ hdr := mkHdr 0 0 0 0 0 7 0 0 1 0 } : Packet).bad = true ∧
    Hp.dmod { hdr := c1Hdr } = modN (linked c1Hdr false) ∧ ({ hdr := mkHdr 0 5 0 3 0 1 0 0 1 0 } : Packet).die ≠ Hp.ddie { hdr := mkHdr 0 5 0 3 0 1 0 0 1 0 } :=
  ⟨mem_of (by decide), rfl, rfl, by decide +kernel, by decide +kernel, by decide +kernel, by decide +kernel, by decide +kernel, by decide +kernel, by decide +kernel⟩
def tagged : State :=
  let s := updStrand (setTeam base 1 { team1 with atag := 5, flying := 1 }) 0 (fun st => { st with c0 := 1, sent := [{ answered := true }, { key := 8 }] })
  let s := setCarter s 0 2 { cur := some { flying := [0, 64] }, old := [(3, 64)] }
  { s with ost := { s.ost with usedTags := [5] } }
theorem wit_PacketsForwarded_ack : tagged.MemOk ∧ tagTeam tagged (5 : Atag).toNat = some { team1 with atag := 5, flying := 1 } ∧
    tagged.teams.find? 1 = some { team1 with atag := 5, flying := 1 } ∧ (getCarter tagged 0 (10 % 8)).cur = some { flying := [0, 64] } ∧
    ((getStrand tagged 0).sent.filter (fun q => !q.answered))[0]? = some { key := 8 } := ⟨mem_of (by decide), rfl, rfl, rfl, rfl⟩
theorem wit_PacketsForwarded_edge : (let s := linked (mkHdr 0 5 0 3 0 1 0 0 1 0) false
    s.fab.inbound[0]? = some { hdr := mkHdr 0 5 0 3 0 1 0 0 1 0, addr := 0x4000, pay := [9] } ∧
    edgeQueue s 0 1 = [{ hdr := mkHdr 0 5 0 3 0 1 0 0 1 0, addr := 0x4000, pay := [9] }]) := by decide +kernel
theorem wit_LinksAndRoutes : (linked c1Hdr false).MemOk ∧ (getLink (linked c1Hdr false) (2 : BitVec 4).toNat).carries = true ∧ (linked c1Hdr false).fab.written = true ∧
    (0 : BitVec 12) = (getLink (linked c1Hdr false) 2).rxSeq ∧ bit (getLink (linked c1Hdr false) 2).lanes 3 = true ∧ 2 ≤ popcount (setBits (15 : BitVec 4) 3 1 0) ∧
    (getLink (linked c1Hdr false) 2).txq = [] ∧ (getLink (linked c1Hdr false) 2).unacked = [] ∧ (getLink base 2).en = false ∧ (∃ x ∈ (linked c1Hdr false).fab.links.vals, x.en = true) ∧
    (∀ x ∈ base.fab.links.vals, x.en = false) ∧ NoLockWaits base ∧ base.fab.written = false :=
  ⟨mem_of (by decide), by decide, rfl, by decide, by decide, by decide, rfl, rfl, by decide, ⟨_, List.mem_cons_self .., rfl⟩, by decide, calm_of (by decide), rfl⟩

/-! ### Witnesses: the host -/

/-- Slot 5 of host port 0 leads to port 1 of die 0, which takes host messages in a mode; a word lies at 0x1000 of HBM, the counters and ring of the port stand at 0x900 and 0x1000. -/
def hosted (mode : Nat) : State :=
  let s := setIPort (teamed base) 1 { desc := (BitVec.ofNat 256 mode <<< 43) ||| (1 <<< 46) ||| (0x1000 <<< 192) ||| (0x900 <<< 128) }
  setHostPort s false { slots := ⟨[(5, 0x8000000100000000)]⟩ }
theorem wit_HostAccess_slots : (hosted 3).MemOk ∧ NoLockWaits (hosted 3) ∧ Slot.v ((hostPort (hosted 3) false).slots.getD (4 : BitVec 13).toNat 0) = false ∧
    Slot.v ((hostPort (hosted 3) false).slots.getD (5 : BitVec 13).toNat 0) = true ∧ Slot.port ((hostPort (hosted 3) false).slots.getD (5 : BitVec 13).toNat 0) = 1 ∧
    (List.replicate 64 (7 : Byte)).length = 64 ∧ (0x7C0 : BitVec 12).toNat % 64 = 0 ∧ (0x7C0 : BitVec 12).toNat < 0x800 ∧ 0xE00 ≤ (0xE00 : BitVec 12).toNat ∧
    Pd.host (getIPort (hosted 3) 1).desc = true ∧ Pd.mode (getIPort (hosted 3) 1).desc = 3 ∧ Pd.mode (getIPort (hosted 1) 1).desc = 1 ∧ Pd.mode (getIPort (hosted 0) 1).desc = 0 :=
  ⟨mem_of (by decide), calm_of (by decide), by decide +kernel⟩
theorem wit_HostAccess_bar2 : (List.replicate 512 (7 : Byte)).length ≤ 512 ∧ bar2Key base false 0x1FFFFFFFE00 512 = some 0x1FFFFFFFE00 ∧ bar2Key base false 0x40 (4096 : BitVec 13).toNat = some 0x40 ∧
    0 < (1 : BitVec 13).toNat ∧ (4096 : BitVec 13).toNat ≤ 4096 ∧ poisoned base 0x40 4096 = false ∧ poisoned { base with poison := [0x40] } 0x40 1 = true := by decide +kernel
/-- An ordinary QUEUE descriptor and one with policy 7. -/
theorem wit_HostAccess_portset : portsetBad base (getIPort base 1).desc ((1 <<< 44) ||| (1 <<< 43) ||| (0x1000 <<< 192) ||| (0x900 <<< 128)) = false ∧
    portsetBad base (getIPort base 1).desc (7 <<< 61) = true := by decide +kernel
/-- Port 1 is a STREAM port whose ring holds one END marker; team 1 runs its stream, with entry channel 4. -/
def streamed (mark : Nat) : State :=
  let s := lay (setIPort (teamed base) 1 { desc := (1 <<< 43) ||| (0x1000 <<< 192) ||| (0x900 <<< 128), team := some 1 }) 0x900 [1]
  let s := lay (lay s 0x1000 [BitVec.ofNat 8 mark]) 0x1400 [0, 0, 0xB0]
  { s with chans := ⟨[(4, { team := 1, prod := 2, branches := [{ kind := 0 }, { kind := 0 }] })]⟩, sec := { s.sec with ready := true } }
theorem wit_HostAccess_stream : (streamed 6).MemOk ∧ NoLockWaits (streamed 6) ∧ Pd.mode (getIPort (streamed 6) 1).live = 1 ∧ (streamed 6).sec.ready = true ∧
    (portSpace (streamed 6) (getIPort (streamed 6) 1).live).isSome = true ∧ (ringTake (streamed 6) 1).map (fun x => (x.1, Sb.isMark x.2.1, isEnd x.1 x.2.1)) = some (6, true, false) ∧
    (getIPort (streamed 6) 1).team = some 1 ∧ (streamed 6).teams.find? 1 = some team1 ∧ team1.state = .running ∧ team1.leave.closed = false ∧
    (entryChannel (streamed 6) 1).isSome = true ∧ (getIPort (streamed 6) 1).part = [] :=
  ⟨mem_of (by decide), calm_of (by decide), by decide +kernel⟩
theorem wit_HostAccess_mark : Slot.v ((hostPort (hosted 1) false).slots.getD (5 : BitVec 13).toNat 0) = true ∧ Pd.mode (getIPort (hosted 1) 1).desc = 1 ∧
    streamSide (0x800 : BitVec 12).toNat (BitVec.ofNat 512 (ofBytes [5])) = none := by decide +kernel
theorem wit_HostAccess_limits : (16777215 : Word32).toNat ≤ 16777215 ∧ 16777215 < (16777216 : Word32).toNat ∧ (0xFFFFFFFFFF : Word).toNat < 2 ^ 40 ∧
    2 ^ 40 ≤ (0x10000000000 : Word).toNat ∧ (teamed base).teams.find? (1 : TeamId).toNat = some team1 ∧ (teamed base).teams.find? (2 : TeamId).toNat = none ∧
    0 < team1.energy.remain + (1 : Word).toNat ∧ 20 ≤ (20 : Half).toNat ∧ (10000 : Half).toNat ≤ 10000 ∧ ¬(20 ≤ (19 : Half).toNat ∧ (19 : Half).toNat ≤ 10000) := by
  refine ⟨by decide, by decide, by decide, by decide, rfl, rfl, by decide, by decide, by decide, by decide⟩

/-! ### Witnesses: trust -/

def trusting (l : Lcs) (att : List (BitVec 2 × BitVec 256)) : State := { base with sec := { base.sec with lcs := l, att := att } }
theorem wit_TrustCommands : (trusting .provisioned []).MemOk ∧ (trusting .provisioned []).sec.meas.length = 8 := ⟨mem_of (by decide), rfl⟩
theorem wit_TrustCommands_measext : measextOk 4 [1] = true ∧ measextOk 7 [1] = true ∧ measextOk 3 [1] = false ∧ measextOk 4 [] = false := by decide
/-- A header that names image 9 lies at 0x8000. -/
def imaged : State := lay base 0x8000 [0, 0, 0, 0, 9]
theorem wit_TrustCommands_imgreg : imaged.MemOk ∧ imgregOk imaged 9 0x8000 64 = true ∧ imgregOk imaged 0 0x8000 64 = false ∧ imgregOk imaged 9 0x8000 63 = false :=
  ⟨mem_of (by decide), by decide⟩
theorem wit_TrustCommands_attest : (1 : BitVec 2) ≠ 2 ∧ (trusting .blank []).sec.lcs = .blank ∧ (trusting .deployed (List.replicate 4 (1, 5))).sec.lcs ≠ .blank ∧
    4 ≤ (trusting .deployed (List.replicate 4 (1, 5))).sec.att.length ∧ (trusting .deployed (List.replicate 3 (1, 5))).sec.att.length < 4 ∧
    (trusting .deployed [(1, 5)]).sec.att = (1, 5) :: [] := by decide
theorem wit_TrustCommands_lifecycle : (trusting .provisioned []).sec.lcs = .provisioned ∧ (trusting .deployed []).sec.lcs ≠ .provisioned ∧ (trusting .blank []).sec.lcs = .blank ∧
    base.sec.recovery = false ∧ ({ base with sec := { base.sec with recovery := true } } : State).sec.recovery = true := by decide
/-- Team 1 is a tenant's. -/
def tenanted : State := setTeam base 1 { team1 with svm := false }
theorem wit_TrustCommands_unlock : tenantLive tenanted = true ∧ tenantLive base = false ∧ ¬(unlockable base.sec = true ∧ tokenGood base.sec 0 0 0 [] = true) ∧ retireGood base.sec [] = false :=
  ⟨by decide, by decide, fun h => absurd h.1 (by decide), by decide⟩
/-- Whether a token's signature checks is the vendor's key's matter: where one does, the unlocking clause is met. -/
theorem wit_TrustCommands_good (sig : List Byte) (h : Config.tokenSigned (tokenBody 0 1 5) sig = true) :
    let t : Trust := { lcs := .provisioned, nonce := some 5 }
    unlockable t = true ∧ tokenGood t 0 1 5 sig = true := by
  refine ⟨rfl, ?_⟩
  rw [tokenGood, h]
  rfl

/-! ### Witnesses: power and heat -/

/-- The firmware runs, the regions below r are up, and a byte lies in a slice of region 0. -/
def powering (r : Nat) : State :=
  let s := lay base 0x40 [7]
  { s with sec := { s.sec with booted := true }, clock := 1000000, power := { s.power with began := some 0 }
           regions := ⟨(List.range r).map (fun k => (k, { up := true }))⟩ }
theorem wit_PowerAndHeat_up : (powering 127).MemOk ∧ mayPowerUp (powering 127) (127 : RegionId).toNat = true ∧ (powering 127).host.ports.cells = [] ∧
    mayPowerUp (powering 0) (0 : RegionId).toNat = true ∧ mayPowerUp (powering 3) (4 : RegionId).toNat = false ∧ modN (powering 0) = 0 :=
  ⟨mem_of (by decide), by decide +kernel⟩
theorem wit_PowerAndHeat_saved : (setTeam base 1 { team1 with state := .saved }).teams.find? 1 = some { team1 with state := .saved } := rfl
def heated (warn : Bool) : State := { updDie base 3 (fun d => { d with warn := warn, coolSince := some 0 }) with clock := 10000000 }
theorem wit_PowerAndHeat_heat : (heated true).MemOk ∧ (getDie (heated true) 3).warn = true ∧ (getDie (heated true) 3).coolSince = some 0 ∧ 0 + 10000000 ≤ (heated true).clock ∧
    105 ≤ (105 : BitVec 8).toNat ∧ (getDie (heated false) 3).warn = false ∧ (124 : BitVec 8).toNat < 125 := ⟨mem_of (by decide), by decide⟩
theorem wit_PowerAndHeat_sampled : (∀ x, (getDie (heated true) 3).sampled = some x → x + 10000 ≤ (heated true).clock) ∧
    (getDie (updDie base 3 (fun d => { d with sampled := some 0 })) 3).sampled = some 0 ∧ base.clock < 0 + 10000 ∧
    (teamed base).teams.find? 1 = some team1 ∧ team1.id = 1 ∧ team1.state = .running ∧ 0 ∈ team1.regions ∧ team1.holds 0 = true ∧ regionDie 0 = (0 : DieId).toNat :=
  ⟨fun x h => by { rw [show (getDie (heated true) 3).sampled = none from rfl] at h; cases h }, rfl, by decide, rfl, rfl, rfl, by decide, by decide, by decide⟩
/-! ### Witnesses: the debugger and the firmware -/

/-- Strand 0 of region 0 as a debugger finds it; TFRAME leads nowhere, and its copy holds a frame. -/
def debugged (run : Run) (inh : Bool) : State :=
  updStrand base 0 (fun st => { st with run := run, pc := 0x50
                                        spr := { st.spr with tframe := 0x0100000000000000, inh := inh }
                                        traps := { st.traps with frame := [0x200, 0, 0, 0, 0, 0, 0x60, 2] } })
theorem wit_DebuggerAndForwarding_debug : (debugged .stopped true).MemOk ∧ NoLockWaits (debugged .stopped true) ∧ debugDenied (debugged .stopped true) 0 = false ∧
    (getStrand (debugged .stopped true) 0).run = .stopped ∧ bitsN ((getStrand (debugged .stopped true) 0).traps.frame.getD 0 0) 8 4 ≤ 8 ∧
    frameKeys (debugged .stopped true) { strandSpace (debugged .stopped true) 0 with svm := handlerSvm (debugged .stopped true) 0 } (getStrand (debugged .stopped true) 0).spr.tframe .read 5 = none ∧
    (getStrand (debugged .ready true) 0).run = .ready ∧ (getStrand (debugged .ready true) 0).run ≠ .stopped ∧ (getStrand (debugged .ready true) 0).hold = none ∧
    (getStrand (debugged .ready true) 0).wait = none ∧ (getStrand (debugged .ready true) 0).traps.due.isSome = false ∧
    (getStrand (debugged .ready true) 0).live.any (·.effect) = false ∧ (getStrand (debugged .idle true) 0).run = .idle :=
  ⟨mem_of (by decide), calm_of (by decide), by decide⟩
theorem wit_DebuggerAndForwarding_later : (getStrand (updStrand base 0 (fun st => { st with hold := some .closed })) 0).hold = some .closed ∧
    (getStrand (waiting base { on := .cwait 4 }) 1).run = .waiting ∧ (getStrand (waiting base { on := .cwait 4 }) 1).wait = some { on := .cwait 4 } ∧
    (getStrand (waiting base { on := .cwait 4 }) 1).hold ≠ some .killed := by decide
def deployedTenant : State :=
  let s := setTeam base 1 { team1 with svm := false, atag := 5 }
  { s with sec := { s.sec with lcs := .deployed } }
theorem wit_DebuggerAndForwarding_denied : debugDenied deployedTenant 0 = true := by decide
/-- The firmware holds strand 0 with a cause. -/
def held : State := updStrand base 0 (fun st => { st with hold := some .firmware, traps := { st.traps with fw := some ({ code := 0x04, tval := 0x99 }, 0x70) } })
theorem wit_DebuggerAndForwarding_forward : held.MemOk ∧ NoLockWaits held ∧ (getStrand held 0).hold = some .firmware ∧ (getStrand held 0).traps.fw = some ({ code := 0x04, tval := 0x99 }, 0x70) ∧
    inOpenTask held 0 = false ∧ ((teamOf held (0 / 4)).getD {}).leave.closed = false ∧ (getStrand held 0).spr.inh = false ∧ (getStrand held 0).spr.tvec ≠ 0 ∧
    (frameKeys held { strandSpace held 0 with svm := handlerSvm held 0 } (getStrand held 0).spr.tframe .write 10).isSome = true ∧
    ((teamOf (setTeam held 1 { team1 with leave := { closed := true } }) (0 / 4)).getD {}).leave.closed = true :=
  ⟨mem_of (by decide), calm_of (by decide), by decide⟩
/-- The fault queue of die 0 holds an entry of region 1. -/
def faulted : State := { base with trans := { base.trans with fq := ⟨[(0, [{ w0 := 0x123, w1 := 0x0400000100000000, w2 := 5 }])]⟩ } }
theorem wit_DebuggerAndForwarding_queue : (getStrand faulted 4).hold ≠ some .firmware ∧
    (takeFault faulted (regionDie (1 : RegionId).toNat) (fun e => bitsN e.w1 32 7 == (1 : RegionId).toNat)).1 = some { w0 := 0x123, w1 := 0x0400000100000000, w2 := 5 } ∧
    (getStrand faulted (causeStrand faulted 1 5)).traps.pend.length < 16 := by decide

/-! ### Witnesses: tiles -/

/-- VMOV o2 ← i1 (R323): op 0x30, dst 42, a 33. -/
def vmov : Word := 0x30AA100000000000
/-- Tile 3 of region 0 holds actor 0 with one input, endpoint 1, and one output, endpoint 2, and the block of one word; channel 3 comes from port 2, channel 4 goes to port 5. -/
def acting (hdr : BitVec 128) (word : Word) (bs : List Branch) : State :=
  let c : Ctx := { actors := ⟨[(0, { hdr := hdr ||| (1 <<< 33), weight := 1 })]⟩, fire := ⟨[(0, word)]⟩, ownIn := 3, ownOut := 4, started := true }
  let s := tiled { gait := { cur := 2 }, ctxs := ⟨[(0, c)]⟩ } 4
  let s := updRegion s 0 (fun g => { g with sects := ⟨[(0, { armed := true })]⟩, pool := { g.pool with tokens := 1000, grant := 1000 } })
  { s with chans := ⟨[(3, { team := 1, prod := 1, pport := 2, branches := bs }), (4, { head := 2 <<< 81, team := 1, prod := 0, preg := 0, ptile := 3, branches := [{ kind := 1, port := 5 }] })]⟩ }
/-- A branch that ends at endpoint e of tile (3, 0) with a buffer. -/
def inlet (e : Nat) (buf : List Item) : Branch := { word := (3 <<< 248) ||| (BitVec.ofNat 256 e <<< 238), buf := buf }
/-- One token in on endpoint 1, one out on endpoint 2; a join of endpoints 0 and 1 besides. -/
def oneIn : BitVec 128 := (1 <<< 100) ||| (1 <<< 72)
def joining (j : Nat) : BitVec 128 := oneIn ||| (1 <<< 96) ||| (BitVec.ofNat 128 j <<< 54) ||| (1 <<< 44)
/-- What the arbiter of tile 3 picks. -/
def pickOf (s : State) : Option (Nat × Ctx) := arbitrate ((getTile s 0 3).ctxs.getD (getTile s 0 3).active {}) (readyActors s 0 3 (getTile s 0 3))
theorem some_pick {s : State} {a : Nat} {todo : Todo} {cost : Nat} (h : (pickOf s).map (·.1) = some a)
    (h' : (decide (todoOf s 0 3 (((getTile s 0 3).ctxs.getD (getTile s 0 3).active {}).actor a) = todo) && intervalOpen s && decide (cost = pickCost s 0 3 a todo)
      && (getRegion s 0).pool.holds cost && drawTurn s 0 3) = true) : ∃ c, Picked s 0 3 a c todo cost := by
  obtain ⟨⟨b, c⟩, hb, rfl⟩ := Option.map_eq_some_iff.mp h
  simp only [Bool.and_eq_true, decide_eq_true_eq] at h'
  exact ⟨c, hb, h'.1.1.1.1, h'.1.1.1.2, h'.1.1.2, h'.1.2, h'.2⟩
def firing1 : State := acting oneIn vmov [inlet 1 [{ toks := [token] }]]
theorem wit_TileSteps_fire : firing1.MemOk ∧ (∃ c, Picked firing1 0 3 0 c (.fire none none) 3) ∧ (tryFire firing1 0 3 0 none none).bad = none ∧ (tryFire firing1 0 3 0 none none).chk.struck = false ∧
    (tryFire firing1 0 3 0 none none).fir.clocks ≤ 1 ∧ (getTile firing1 0 3).fir = none ∧
    mayEnd firing1 0 3 (getTile firing1 0 3).active (((getTile firing1 0 3).ctxs.getD (getTile firing1 0 3).active {}).actor 0).hdr = true :=
  ⟨mem_of (by decide), some_pick (by decide +kernel) (by decide +kernel), by decide +kernel, by decide +kernel, by decide +kernel, rfl, by decide +kernel⟩
/-- VRSQ.FP32 v0 ← i1 (R322): op 0x39, a 33; it takes more than one tile clock. -/
def slow : State := acting oneIn 0x3902100000000000 [inlet 1 [{ toks := [token] }]]
theorem wit_TileSteps_slow : slow.MemOk ∧ (∃ c, Picked slow 0 3 0 c (.fire none none) ((tryFire slow 0 3 0 none none).cost)) ∧ (tryFire slow 0 3 0 none none).bad = none ∧
    (tryFire slow 0 3 0 none none).chk.struck = false ∧ 1 < (tryFire slow 0 3 0 none none).fir.clocks ∧ slow.part = [] :=
  ⟨mem_of (by decide), some_pick (by decide +kernel) (by decide +kernel), by decide +kernel, by decide +kernel, by decide +kernel, rfl⟩
/-- The same firing in progress; its last tile clock has come at fin = 4 and not at fin = 5. -/
def lasting (fin : Nat) : State := updTile slow 0 3 (fun t => { t with fir := some { fin := fin, heads := [[], [token], [], [], [], [], [], []] } })
theorem wit_TileSteps_ends : (lasting 4).MemOk ∧ (getTile (lasting 4) 0 3).fir = some { fin := 4, heads := [[], [token], [], [], [], [], [], []] } ∧ (lasting 4).clock = 4 ∧
    mayEnd (lasting 4) 0 3 0 (((getTile (lasting 4) 0 3).ctxs.getD 0 {}).actor 0).hdr = true ∧ (lasting 5).clock < 5 :=
  ⟨mem_of (by decide), rfl, rfl, by decide +kernel, by decide⟩
def marked : State := acting oneIn vmov [inlet 1 [{ mark := true, toks := [markTok 2 0] }]]
theorem wit_TileSteps_mark : (∃ c, Picked marked 0 3 0 c (.pass 1) 1) ∧ inBranch marked 0 3 1 = some (3, 0) ∧ (getBranch marked 3 0).seen marked.clock = .mark (markTok 2 0) ∧
    mayConsume marked 0 3 (((getTile marked 0 3).ctxs.getD (getTile marked 0 3).active {}).actor 0).hdr = true :=
  ⟨some_pick (by decide +kernel) (by decide +kernel), by decide +kernel, rfl, by decide +kernel⟩
def joined (j : Nat) (x y : Item) : State := acting (joining j) vmov [inlet 0 [x], inlet 1 [y]]
def gapped (n : Nat) : Item := { gaps := [{ cnt := n, wt := n }], toks := [token] }
def plainItem : Item := { toks := [token] }
def endItem : Item := { mark := true, toks := [markTok 2 0] }
theorem wit_TileSteps_join : mayConsume (joined 1 (gapped 2) (gapped 3)) 0 3 (joining 1) = true ∧
    (∃ c, Picked (joined 1 (gapped 2) (gapped 3)) 0 3 0 c (.gaps { cnt := 2, wt := 2 } { cnt := 3, wt := 3 }) 1) ∧
    (∃ c, Picked (joined 1 (gapped 2) plainItem) 0 3 0 c (.out 0 1 { cnt := 2, wt := 2 }) 1) ∧ (∃ c, Picked (joined 1 endItem endItem) 0 3 0 c .ends 1) :=
  ⟨by decide +kernel, some_pick (by decide +kernel) (by decide +kernel), some_pick (by decide +kernel) (by decide +kernel), some_pick (by decide +kernel) (by decide +kernel)⟩
theorem wit_TileSteps_park : (let s := joined 3 (gapped 2) plainItem
    (pickOf s).isSome = true ∧ todoOf s 0 3 (((getTile s 0 3).ctxs.getD (getTile s 0 3).active {}).actor 0) = .park ∧ intervalOpen s = true) := by decide +kernel
/-- Actor 0 of tile 3 is a memory node with one request. -/
def requesting (d : Option Line) : State := updTile (acting oneIn vmov []) 0 3 (fun t => { t with reqs := [{ va := 0x40, data := d, side := token.side }] })
theorem wit_TileSteps_node : (requesting none).MemOk ∧ NoLockWaits (requesting none) ∧ teamOf (requesting none) 0 = some team1 ∧ (getTile (requesting none) 0 3).reqs = [{ va := 0x40, side := token.side }] ∧
    (getTile (requesting (some 9)) 0 3).reqs = [{ va := 0x40, data := some 9, side := token.side }] ∧ (((getTile (requesting none) 0 3).ctxs.getD 0 {}).actor 0).park = none ∧
    Reached (requesting none) (team1.spaceAt team1.svm 0) 0x40 64 .read [{ va := 0x40, key := 0x40, len := 64 }] ∧ badAt (requesting none) [{ va := 0x40, key := 0x40, len := 64 }] = none ∧
    Reached (requesting (some 9)) (team1.spaceAt team1.svm 0) 0x40 64 .write [{ va := 0x40, key := 0x40, len := 64 }] ∧
    outChan (requesting none) 0 3 2 = some 4 ∧ Sb.h token.side = true :=
  ⟨mem_of (by decide), calm_of (by decide), rfl, rfl, rfl, rfl, (reached_of (by decide +kernel) rfl).1, by decide +kernel, (reached_of (by decide +kernel) rfl).1, by decide +kernel, by decide⟩
/-- MMA (R344) of BF16 with an empty line of the slice for its header. -/
def sparse : State := acting oneIn 0x6000100010000000 [inlet 1 [{ toks := [token] }]]
theorem wit_TileSteps_sparse : (∃ c, Picked sparse 0 3 0 c (.fire none none) ((tryFire sparse 0 3 0 none none).cost)) ∧ (tryFire sparse 0 3 0 none none).chk.struck = false ∧
    (tryFire sparse 0 3 0 none none).bad.isSome = true := ⟨some_pick (by decide +kernel) (by decide +kernel), by decide +kernel, by decide +kernel⟩

/-! ### Witnesses: channels, Reins and the draw -/

/-- Channel 3 from port 2 to endpoint 1 of tile (3, 0), DEPTH 16 of SPILL with a ring of two slots at 0x9000. -/
def landing (b : Branch) : State := acting oneIn vmov [{ b with word := b.word ||| (3 <<< 248) ||| (1 <<< 238) ||| (15 <<< 219) ||| (12 <<< 198) ||| (8 <<< 191) ||| (2 <<< 121) ||| 0x9000 }]
def onWay (due : Nat) : Branch := { flight := [{ toks := [token], due := due }] }
theorem wit_RingSteps_arrive : (landing (onWay 4)).MemOk ∧ (let s := landing (onWay 4)
    let b := getBranch s 3 0
    b.arrival s.clock = some ({ toks := [token], due := 4 }, []) ∧ b.mayAct s.clock 3 = true ∧ consumerDone s (getChan s 3) b = true ∧ b.remote = false ∧ b.kind ≠ 2 ∧
    Sb.isMark token.side = false ∧ b.st.retest = false ∧ b.st.eng = false ∧ b.st.spocc = 0 ∧ b.occ < Br.engm b.word) ∧
    (getBranch (landing (onWay 5)) 3 0).flight = [{ toks := [token], due := 5 }] ∧ (landing (onWay 5)).clock < 5 :=
  ⟨mem_of (by decide), by decide +kernel⟩
def spilled : State := landing { spill := [{ toks := [token] }], st := { spocc := 1 } }
theorem wit_RingSteps_spill : spilled.MemOk ∧ (getBranch spilled 3 0).mayAct spilled.clock 2 = true ∧ consumerDone spilled (getChan spilled 3) (getBranch spilled 3 0) = true ∧ (getBranch spilled 3 0).spill = [{ toks := [token] }] ∧ (getBranch spilled 3 0).park = none ∧
    (getBranch spilled 3 0).room (getChan spilled 3).head (Item.cost { gaps := [], seq := 0, toks := [token] }) = true ∧
    (let u := spillPrep (stamp spilled 3 0 2) 3 0 0 .read
     match spillPieces u 3 0 0 .read with | .ok ps => ps.all (fun p => !bit p.pte 5) && (badAt u ps).isNone | _ => false) = true :=
  ⟨mem_of (by decide), by decide +kernel⟩
theorem wit_RingSteps_late : (getBranch (landing { onWay 4 with stage := 24 }) 3 0).mayAct (landing { onWay 4 with stage := 24 }).clock 3 = false := by decide +kernel
def extended : State := landing { buf := [{ toks := [token], slots := [some 0] }] }
theorem wit_RingSteps_extension : extended.MemOk ∧ (getBranch extended 3 0).usedSlots ≠ [] ∧ (getBranch extended 3 0).landed < 16 ∧ (∀ k ∈ (getBranch extended 3 0).usedSlots, poisoned extended (extKey extended (getChan extended 3) (getBranch extended 3 0) k) 64 = false) := ⟨mem_of (by decide), by decide +kernel⟩
theorem wit_RingSteps_clocks : (tiled {} 256).MemOk ∧ teamOf (tiled {} 256) (0 : RegionId).toNat = some team1 ∧ team1.state = .running ∧
    (tiled {} 256).clock = (getRegion (tiled {} 256) 0).tick + (0 + 1) * 2 ^ (getRegion (tiled {} 256) 0).civ ∧ tickFree (tiled {} 256) 0 = true ∧
    (∀ n, (tiled {} 255).clock ≠ (getRegion (tiled {} 255) 0).tick + (n + 1) * 2 ^ (getRegion (tiled {} 255) 0).civ) ∧ (tiled {} 1000).power.interval + 1000 ≤ (tiled {} 1000).clock :=
  ⟨mem_of (by decide), rfl, rfl, by decide +kernel, by decide +kernel, fun n => by
    have h : (tiled {} 255).clock = 255 ∧ (getRegion (tiled {} 255) 0).tick = 0 ∧ 2 ^ (getRegion (tiled {} 255) 0).civ = 256 := by decide +kernel
    rw [h.1, h.2.1, h.2.2]; omega, by decide +kernel⟩

/-! ### Words written out from the encodings of the spec -/

/-- Words of register arithmetic (R260). -/
theorem test_decode_register_arithmetic :
    decode 0x02AA9C00 = .ok (.add 21 10 19 2) ∧ decode 0x02AA9C01 = .ok (.sub 21 10 19 2) ∧ decode 0x02AA9802 = .ok (.and 21 10 19) ∧
    decode 0x02AA9803 = .ok (.or 21 10 19) ∧ decode 0x02AA9804 = .ok (.xor 21 10 19) ∧ decode 0x02AA9C05 = .ok (.sll 21 10 19 2) ∧
    decode 0x02AA9C06 = .ok (.srl 21 10 19 2) ∧ decode 0x02AA9C07 = .ok (.sra 21 10 19 2) ∧ decode 0x02AA9808 = .ok (.slt 21 10 19) ∧
    decode 0x02AA9809 = .ok (.sltw 21 10 19) ∧ decode 0x02AA980A = .ok (.min 21 10 19) ∧ decode 0x02AA980B = .ok (.max 21 10 19) ∧
    decode 0x06AA9C00 = .ok (.mul 21 10 19 2) ∧ decode 0x06AA9801 = .ok (.mulh 21 10 19) ∧ decode 0x06AA9C02 = .ok (.div 21 10 19 2) ∧
    decode 0x06AA9C03 = .ok (.divw 21 10 19 2) ∧ decode 0x06AA9C04 = .ok (.rem 21 10 19 2) ∧ decode 0x06AA9C05 = .ok (.remw 21 10 19 2) := by decide

/-- Words of immediates (R261). -/
theorem test_decode_immediates :
    decode 0x0AAA8001 = .ok (.addi 21 10 0x8001) ∧ decode 0x0EAA8001 = .ok (.andi 21 10 0x8001) ∧ decode 0x12AA8001 = .ok (.ori 21 10 0x8001) ∧
    decode 0x16AA8001 = .ok (.xori 21 10 0x8001) ∧ decode 0x1AAA8001 = .ok (.slti 21 10 0x8001) ∧ decode 0x1EAA8001 = .ok (.sltiw 21 10 0x8001) ∧
    decode 0x22AA0021 = .ok (.slli 21 10 33) ∧ decode 0x26AA0021 = .ok (.srli 21 10 33) ∧ decode 0x2AAA0021 = .ok (.srai 21 10 33) ∧
    decode 0x2EA08001 = .ok (.lui 21 0x8001) ∧ decode 0x32AA8001 = .ok (.ori16 21 10 0x8001) ∧ decode 0x36AA8001 = .ok (.ori32 21 10 0x8001) ∧
    decode 0x3AAA8001 = .ok (.ori48 21 10 0x8001) ∧ decode 0x3EA08001 = .ok (.pcadd 21 0x8001) := by decide

/-- Words of branches and jumps (R262, R263). -/
theorem test_decode_branches_and_jumps :
    decode 0x41537FFE = .ok (.beq 10 19 0x7ffe) ∧ decode 0x45537FFE = .ok (.bne 10 19 0x7ffe) ∧ decode 0x49537FFE = .ok (.blt 10 19 0x7ffe) ∧
    decode 0x4D537FFE = .ok (.bge 10 19 0x7ffe) ∧ decode 0x51537FFE = .ok (.bltw 10 19 0x7ffe) ∧ decode 0x55537FFE = .ok (.bgew 10 19 0x7ffe) ∧
    decode 0x5A000001 = .ok (.j 0x2000001) ∧ decode 0x5E000001 = .ok (.jal 0x2000001) ∧ decode 0x62AA8001 = .ok (.jalr 21 10 0x8001) := by decide

/-- Words of loads and stores (R264). -/
theorem test_decode_loads_and_stores :
    decode 0x8AB37FFE = .ok (.ld 2 21 19 0x7ffe) ∧ decode 0x96B37FFE = .ok (.ldWhW 21 19 0x7ffe) ∧ decode 0x9AB37FFE = .ok (.ldWhH 21 19 0x7ffe) ∧
    decode 0x9EB37FFE = .ok (.ldWhB 21 19 0x7ffe) ∧ decode 0xAAD37FFE = .ok (.st 2 22 19 0x7ffe) := by decide

/-- Words of special registers and memory order (R266, R270, R271). -/
theorem test_decode_special_registers_and_memory_order :
    decode 0x66A00021 = .ok (.mfs 21 33) ∧ decode 0x680A0001 = .ok (.mts 10 1) ∧ decode 0xC2AA9C58 = .ok (.amo 21 10 19 4 true false true 8) ∧
    decode 0xC6AA9C50 = .ok (.cas 21 10 19 4 true false true) ∧ decode 0xC8000402 = .ok (.phase 4 2) := by decide

/-- Words of waits (R272–R277). -/
theorem test_decode_waits :
    decode 0xCEAA9C00 = .ok (.waitge 21 10 19 4) ∧ decode 0xCEAA0401 = .ok (.bar 21 10 4) ∧ decode 0xCEAA0402 = .ok (.lock 21 10 4) ∧
    decode 0xCEAA0403 = .ok (.unlock 21 10 4) ∧ decode 0xCEAA9804 = .ok (.tether 21 10 19) ∧ decode 0xCC0A0005 = .ok (.untether 10) ∧
    decode 0xCEAA0006 = .ok (.cwait 21 10) := by decide

/-- Words of commands, ports and messages (R278–R283). -/
theorem test_decode_commands_ports_and_messages :
    decode 0xD2AA0000 = .ok (.cmd 21 10) ∧ decode 0xD2AA9801 = .ok (.cmdr 21 10 19) ∧ decode 0xD2AA9802 = .ok (.portrd 21 10 19) ∧
    decode 0xD2AA9803 = .ok (.portwr 21 10 19) ∧ decode 0xD2AA9804 = .ok (.enq 21 10 19) ∧ decode 0xD2AA9805 = .ok (.rsend 21 10 19) ∧
    decode 0xD2AA9806 = .ok (.rrecv 21 10 19) := by decide

/-- Words of teams, Farriers, control (R284–R291). -/
theorem test_decode_teams_Farriers_control :
    decode 0xD6AA0000 = .ok (.launch 21 10) ∧ decode 0xD6AA9C01 = .ok (.strand 21 10 19 4) ∧ decode 0xD4000002 = .ok (.taskend) ∧
    decode 0xD4000003 = .ok (.teamend) ∧ decode 0xD6AA0004 = .ok (.release 21 10) ∧ decode 0xD6AA9805 = .ok (.gait 21 10 19) ∧
    decode 0xDAAA9800 = .ok (.fscan 21 10 19) ∧ decode 0xDAAA0001 = .ok (.fsig 21 10) ∧ decode 0xDEAA9800 = .ok (.trap 21 10 19) ∧
    decode 0xDC000001 = .ok (.rte) ∧ decode 0xDC000002 = .ok (.yield) ∧ decode 0xDC000003 = .ok (.bkpt) := by decide

/-- The writes of special registers that have rows of their own: MTS of TVEC 0x005, TFRAME 0x00A, TSTATUS 0x00B, GAITFLOOR 0x00F, QUOTA 0x010, LRMAP2 0x022 (R266). -/
theorem test_decode_refined_writes : decode 0x680A0005 = .ok (.tvecWrite 10) ∧ decode 0x680A000A = .ok (.tframeWrite 10) ∧ decode 0x680A000B = .ok (.tstatusWrite 10) ∧
    decode 0x680A000F = .ok (.gaitfloorWrite 10) ∧ decode 0x680A0010 = .ok (.quotaWrite 10) ∧ decode 0x680A0022 = .ok (.lrmapWrite 10 2) := by decide
/-- No word: op 0x3F, ALU function 12, AMO operation 9 are ILLEGAL_OP; PHASE without an order too; AND with z, WAITGE with scope 5 and BAR with b are RESERVED_FIELD (R232, R236). -/
theorem test_decode_refuses : decode 0xFC000000 = .error .illegalOp ∧ decode 0x0000000C = .error .illegalOp ∧ decode 0xC0000009 = .error .illegalOp ∧
    decode 0x00000202 = .error .reservedField ∧ decode 0xCC000500 = .error .reservedField ∧ decode 0xCC000801 = .error .reservedField ∧ decode 0xC8000000 = .error .illegalOp := by decide

/-- Words of the stream commands (R237, R292–R315), by their fields op, TGT, flags, class, arg32, arg64. -/
theorem test_decode_commands :
    decodeCmd 0x011F000000000000123456789ABCDEF0 = .ok (.bind 31 0x123456789abcdef0) ∧
    decodeCmd 0x020905000000004D123456789ABCDEF0 = .ok (.feed 9 true false true 77 0x123456789abcdef0) ∧
    decodeCmd 0x020902000000004D123456789ABCDEF0 = .ok (.feed 9 false true false 77 0x123456789abcdef0) ∧
    decodeCmd 0x030901000000004D123456789ABCDEF0 = .ok (.drain 9 false true 77 0x123456789abcdef0) ∧
    decodeCmd 0x030904000000004D123456789ABCDEF0 = .ok (.drain 9 true false 77 0x123456789abcdef0) ∧
    decodeCmd 0x0420020080000001123456789ABCDEF0 = .ok (.cfg 2 0x80000001 0x123456789abcdef0) ∧
    decodeCmd 0x0509050000000000123456789ABCDEF0 = .ok (.cfgtok 9 2 true 0x123456789abcdef0) ∧
    decodeCmd 0x062029000000004D0000000000000000 = .ok (.arm 2 9 77) ∧
    decodeCmd 0x0720030000000000123456789ABCDEF0 = .ok (.start 3 0x123456789abcdef0) ∧
    decodeCmd 0x08200000000000000000000000000000 = .ok .barrier ∧
    decodeCmd 0x09200600000080010000000000000000 = .ok (.accrst true 2 0x8001) ∧
    decodeCmd 0x0A09040200000000123456789ABCDEF0 = .ok (.mark 9 4 2 0x123456789abcdef0) ∧
    decodeCmd 0x0B20020000028001123456789ABCDEF0 = .ok (.shed true false 2 0x8001 0x123456789abcdef0) ∧
    decodeCmd 0x0C200000000280010000010000000001 = .ok (.couple 2 0x8001 0x10000000001) ∧
    decodeCmd 0x0D20010000000000123456789ABCDEF0 = .ok (.switch 1 0x123456789abcdef0) ∧
    decodeCmd 0x0E200000000003FF123456789ABCDEF0 = .ok (.tmpl 1023 0x123456789abcdef0) ∧
    decodeCmd 0x0F20000007F801A1123456789ABCDEF0 = .ok (.redtree 127 0x801 2 33 0x123456789abcdef0) ∧
    decodeCmd 0x1020008000000001123456789ABCDEF0 = .ok (.close 0x8000000001 0x123456789abcdef0) ∧
    decodeCmd 0x11200080000000010000000000000014 = .ok (.quiesce 0x8000000001 20) ∧
    decodeCmd 0x1220008000000001123456789ABCDEF0 = .ok (.save 0x8000000001 0x123456789abcdef0) ∧
    decodeCmd 0x1320008000000001123456789ABCDEF0 = .ok (.restore 0x8000000001 0x123456789abcdef0) ∧
    decodeCmd 0x1420020080000001123456789ABCDEF0 = .ok (.resume 2 0x80000001 0x123456789abcdef0) ∧
    decodeCmd 0x152000000000023E123456789ABCDEF0 = .ok (.watchset 30 17 0x123456789abcdef0) := by decide

/-- Op 0x16 is ILLEGAL_OP; a port command to the control queue, a control command to a port, MARK of type 1 and a set reserved bit are RESERVED_FIELD (R238). -/
theorem test_decode_commands_refused : decodeCmd 0x16200000000000000000000000000000 = .error .illegalOp ∧ decodeCmd 0x0120000000000000123456789ABCDEF0 = .error .reservedField ∧
    decodeCmd 0x0709030000000000123456789ABCDEF0 = .error .reservedField ∧ decodeCmd 0x0A090100000000000000000000000000 = .error .reservedField ∧ decodeCmd 0x08200000000000000000000000000001 = .error .reservedField := by decide

/-! ### Single steps: values computed by hand from the rules -/

/-- Register 7 of strand 0, its pc, and a byte of memory, after one instruction. -/
def after (i : Instr) (s : State) : State := match exec i s with | .next t => t | _ => s
def g7 (i : Instr) (xs : List (Nat × Word)) : Word := (getStrand (after i (holding xs)) 0).reg 7

/-- DIV by 0 gives −1, the least number by −1 gives itself; REMW by 0 gives the dividend; DIV rounds toward zero and REM takes the dividend's sign (R260). -/
theorem test_divisions : g7 (.div 7 5 6 0) [(5, 9)] = -1 ∧ g7 (.div 7 5 6 0) [(5, 0x8000000000000000), (6, -1)] = 0x8000000000000000 ∧ g7 (.remw 7 5 6 3) [(5, 0x1F9)] = -7 ∧
    g7 (.div 7 5 6 0) [(5, -7), (6, 2)] = -3 ∧ g7 (.rem 7 5 6 0) [(5, -7), (6, 2)] = -1 := by decide
/-- A width below 64 sign-extends (R260): 0x7FFFFFFF + 1 as W, a shift of B by 9 mod 8, an arithmetic shift of H. -/
theorem test_widths : g7 (.add 7 5 6 1) [(5, 0x7FFFFFFF), (6, 1)] = 0xFFFFFFFF80000000 ∧ g7 (.sll 7 5 6 3) [(5, 0x40), (6, 9)] = 0xFFFFFFFFFFFFFF80 ∧
    g7 (.sra 7 5 6 2) [(5, 0x8000), (6, 4)] = 0xFFFFFFFFFFFFF800 ∧ g7 (.mulh 7 5 6) [(5, -1), (6, 2)] = -1 := by decide
/-- A destination g0 keeps nothing (R258). -/
theorem test_g0 : (getStrand (after (.add 0 5 6 0) (holding [(5, 1), (6, 2)])) 0).reg 0 = 0 := by decide
/-- ST.W is little-endian (R229), and LD.W sign-extends what it wrote while LD.WH.W does not (R264). -/
theorem test_store_load : (let t := after (.st 1 8 5 (-4)) (holding [(5, 0x44), (8, 0xAABBCCDD87654321)])
    ((List.range 5).map (fun k => memRead t.mem (0x40 + k)) = [0x21, 0x43, 0x65, 0x87, 0]) ∧
    (getStrand (after (.ld 1 7 5 (-4)) { t with cur := base.cur }) 0).reg 7 = 0xFFFFFFFF87654321 ∧
    (getStrand (after (.ldWhW 7 5 (-4)) { t with cur := base.cur }) 0).reg 7 = 0x87654321) := by decide
/-- BLT backwards by two words from 0x10000 (R232, R262); an unsigned compare does not branch. -/
theorem test_branch : (getStrand (after (.blt 5 6 (-2)) (holding [(5, -1), (6, 1)])) 0).pc = 0xFFF8 ∧ (getStrand (after (.bltw 5 6 (-2)) (holding [(5, -1), (6, 1)])) 0).pc = 0x10004 := by decide
/-- LD.W at an odd address raises MISALIGN, 0x03, with the address in TVAL and the pc in TPC; the handler runs with INH (R205, R264). -/
theorem test_misaligned : (let t := after (.ld 1 7 5 0) (holding [(5, 0x41)])
    ((getStrand t 0).pc = 0x2000 ∧ bits (getStrand t 0).spr.tcause 0 8 = (0x03 : Byte) ∧ (getStrand t 0).spr.tval = 0x41 ∧ (getStrand t 0).spr.tpc = 0x10000 ∧ (getStrand t 0).spr.inh = true)) := by decide +kernel
end Sys2Proof.Tests
end

section
/-! The clock is no business of the shared operations: writes, frames, traps and the settling after a step leave it. -/

namespace Sys2Proof.Machine

/-- A fold of operations that leave the clock leaves it. -/
theorem foldl_clock {α : Type} {f : State → α → State} (hf : ∀ s x, (f s x).clock = s.clock) (l : List α) (s : State) :
    (l.foldl f s).clock = s.clock := by
  induction l generalizing s with
  | nil => rfl
  | cons x xs ih => rw [List.foldl_cons, ih, hf]

/-! ### Writes and walks -/

@[simp] theorem performBytes_clock (s : State) (i key : Nat) (bs : List Byte) (acq : Bool) :
    (performBytes s i key bs acq).clock = s.clock := rfl

@[simp] theorem performParts_clock (s : State) (p : Part → Bool) : (performParts s p).clock = s.clock := by
  unfold performParts
  split
  · rfl
  · exact foldl_clock (fun _ _ => performBytes_clock _ _ _ _ _) _ _

@[simp] theorem performOwn_clock (s : State) (i key n : Nat) : (performOwn s i key n).clock = s.clock := by
  simp only [performOwn]
  split
  · exact performParts_clock _ _
  · exact (foldl_clock (fun _ _ => performBytes_clock _ _ _ _ _) _ _).trans (performParts_clock _ _)

@[simp] theorem writeBlocks_clock (s : State) (i : Nat) (ks : List Nat) (bs : List Byte) :
    (writeBlocks s i ks bs).clock = s.clock := by
  induction ks generalizing s bs with
  | nil => rfl
  | cons k ks ih => simp [writeBlocks, ih]

@[simp] theorem account_clock (s : State) (key : Nat) (pte : Word) (n : Nat) : (account s key pte n).clock = s.clock := by
  unfold account; split <;> rfl

@[simp] theorem fillMicro_clock (s : State) (r : Nat) (e : Tlb) : (fillMicro s r e).clock = s.clock := rfl

@[simp] theorem touchTlb_clock (s : State) (c : Space) (va : Nat) : (touchTlb s c va).clock = s.clock := by
  unfold touchTlb
  split
  · rfl
  · split <;> rfl

@[simp] theorem finishWalk_clock (s : State) (w : Walk) (res : Except (Bool × Nat) (Word × Nat)) :
    (finishWalk s w res).clock = s.clock := by
  cases res with
  | ok x => exact foldl_clock (fun _ _ => fillMicro_clock _ _ _) _ _
  | error x => rfl

@[simp] theorem walkNow_clock (s : State) (c : Space) (va : Word) (k : Acc) : (walkNow s c va k).clock = s.clock := by
  simp only [walkNow]
  split
  · split
    · exact finishWalk_clock _ _ _
    · exact finishWalk_clock _ _ _
  · exact touchTlb_clock _ _ _
  · rfl

/-! ### Frames and traps -/

@[simp] theorem writeFrame_clock (s : State) (i : Nat) (c : Space) (fr : Word) (keys : List Nat) (ws : List Word) :
    (writeFrame s i c fr keys ws).clock = s.clock := by
  refine (writeBlocks_clock _ _ _ _).trans (foldl_clock (fun s j => ?_) _ _)
  dsimp only
  split
  · rw [account_clock, walkNow_clock]
  · exact walkNow_clock _ _ _ _

@[simp] theorem toDebugger_clock (s : State) (i : Nat) (c : Cause) (tpc rpc : Word) (ents : List Entry) :
    (toDebugger s i c tpc rpc ents).clock = s.clock := by
  simp only [toDebugger, emit_clock, updStrand_clock]
  split
  · exact writeFrame_clock _ _ _ _ _ _
  · rfl

@[simp] theorem toFirmware_clock (s : State) (i : Nat) (c : Cause) (tpc rpc : Word) (ents : List Entry) :
    (toFirmware s i c tpc rpc ents).clock = s.clock := rfl

@[simp] theorem raiseAfter_clock (s : State) (i : Nat) (c : Cause) (debug : Bool) : (raiseAfter s i c debug).clock = s.clock := by
  simp only [raiseAfter]
  split
  · rfl
  · split
    · rfl
    · split
      · exact toDebugger_clock _ _ _ _ _ _
      · rfl

@[simp] theorem stepOrWatch_clock (s : State) (i n : Nat) : (stepOrWatch s i n).clock = s.clock := by
  simp only [stepOrWatch]
  split
  · rfl
  · split <;> split
    · exact raiseAfter_clock _ _ _ _
    · exact raiseAfter_clock _ _ _ _
    · exact raiseAfter_clock _ _ _ _
    · rfl

/-! ### Settling after a step -/

@[simp] theorem tryRetire_clock (s : State) (id : Nat) : (tryRetire s id).clock = s.clock := by
  simp only [tryRetire]
  split
  · exact updTeam_clock _ _ _
  · rfl

@[simp] theorem dropWaitEntry_clock (s : State) (gid : Nat) : (dropWaitEntry s gid).clock = s.clock := by
  unfold dropWaitEntry
  split
  · rfl
  · simp only [dropTether, dropEntries]; split <;> rfl

@[simp] theorem endWait_clock (s : State) (i : Nat) (v : Word) : (endWait s i v).clock = s.clock := by
  simp only [endWait]
  split
  · rw [stepOrWatch_clock]
    dsimp only
    split <;> simp
  · rfl

@[simp] theorem grantLock_clock (s : State) (key i : Nat) (rest : List Nat) : (grantLock s key i rest).clock = s.clock := by
  simp only [grantLock, acquire, updStrand_clock, endWait_clock, writeWord, writeBytes_clock]

@[simp] theorem noteCounter_clock (s : State) (i : Nat) : (noteCounter s i).clock = s.clock := by
  simp only [noteCounter]
  split
  · split
    · split <;> rfl
    · rfl
  · rfl

@[simp] theorem noteDeps_clock (s : State) : (noteDeps s).clock = s.clock := by
  unfold noteDeps; split <;> rfl

/-- What a step's writes set off takes no time. -/
@[simp] theorem settle_clock (s : State) : (settle s).clock = s.clock := by
  simp only [settle, noteDeps_clock]
  refine (foldl_clock (fun t (c : Nat × Strand) => noteCounter_clock t c.1) _ _).trans (foldl_clock (fun t c => ?_) _ _)
  split
  · split
    · exact grantLock_clock _ _ _ _
    · rfl
  · rfl

/-- A step's clock is the one its effect leaves. -/
theorem runStep_clock (f : State → State) (s t : State) (h : runStep f s = .next t) : t.clock = (f { s with wlog := [] }).clock := by
  cases h
  dsimp only
  split
  · rfl
  · exact settle_clock _

end Sys2Proof.Machine
end

section
/-! What `step` comes to for each turn at the head of the schedule, and what a passing of clocks moves. -/

namespace Sys2Proof.Machine

/-! ### The turn that comes next -/

theorem awake_of_powered {s : State} (h : s.power.powered = true) : awake s = true := by simp [awake, h]

theorem step_of_prepare_run {s u : State} {i : Instr} (ha : awake s = true) (hp : prepare s = .run i u) : step s = exec i u := by
  simp [step, ha, hp]

theorem step_of_prepare_done {s : State} {o : Host.Outcome State Fault Refusal} (ha : awake s = true) (hp : prepare s = .done o) :
    step s = o := by
  simp [step, ha, hp]

theorem prepare_command {s : State} {r : RegionId} {q : Nat} {rest : List Turn} (h : s.schedule = .command r q :: rest) :
    prepare s = beginCommand { s with schedule := rest } r q := by
  simp [prepare, h]

theorem prepare_event {s : State} {i : Instr} {rest : List Turn} (h : s.schedule = .event i :: rest) (hi : isEvent i = true) :
    prepare s = .run i { s with schedule := rest } := by
  simp [prepare, h, hi]

theorem prepare_tick {s : State} {n : Nat} {rest : List Turn} (h : s.schedule = .tick n :: rest) :
    prepare s = .done (runStep (fun s => quietTurn s (.tick n)) { s with schedule := rest }) := by
  simp [prepare, h]

/-- A queue's head that may begin and decodes runs marked begun (R124, R294). -/
theorem beginCommand_run {s : State} {r : RegionId} {q : Nat} {h : QCmd} {i : Instr} (hh : headReady s r.toNat q = some h)
    (hi : decodeCmd h.word = .ok i) :
    beginCommand s r q = .run i (markBegun { s with cur := { reg := r, str := h.strand, num := h.num, queue := q } } r.toNat h.num) := by
  simp [beginCommand, hh, hi]

/-- Without power only a cold reset runs (R108, R109). -/
theorem step_unpowered {s : State} (hp : s.power.powered = false) (hr : s.schedule.head? ≠ some (.event .coldReset)) :
    step s = .fault .poweredOff := by
  simp [step, awake, hp, hr]

/-! ### The clock passes -/

/-- No word of a firing has an access to make while no firing is in progress (R339). -/
theorem sliceTick_noFiring (s : State) (now : Nat) (h : ∀ x ∈ s.tiles.vals, x.fir = none) : sliceTick s now = s := by
  refine List.foldlRecOn (motive := (· = s)) s.tiles.cells _ rfl fun t ht c hc => ?_
  simp only [h c.2 (List.mem_map_of_mem hc), ht]

/-- No SHED takes effect where none waits (R143). -/
theorem settleSheds_noShed (s : State) (h : ∀ c ∈ s.chans.vals, ∀ b ∈ c.branches, b.shed = none) : settleSheds s = s := by
  refine List.foldlRecOn (motive := (· = s)) s.chans.cells _ rfl fun t ht c hc => ?_
  refine List.foldlRecOn (motive := (· = s)) c.2.indexed _ ht fun u hu b hb => ?_
  have hnone : b.2.shed = none := h c.2 (List.mem_map_of_mem hc) b.2 (List.of_mem_zip hb).2
  simp [hnone, hu]

/-- Counting a load's clocks in the open phases (R227) moves the regions alone. -/
theorem countLoads_regions (s : State) (rs : List Nat) (f : Phase → Phase) :
    ∃ g : Assoc Region, rs.foldl (fun s r => (List.range 4).foldl (fun s x => updPhase s r x f) s) s = { s with regions := g } := by
  refine List.foldlRecOn (motive := fun t => ∃ g : Assoc Region, t = { s with regions := g }) rs _ ⟨s.regions, rfl⟩ fun t ht r _ => ?_
  refine List.foldlRecOn (motive := fun t => ∃ g : Assoc Region, t = { s with regions := g }) (List.range 4) _ ht fun u hu x _ => ?_
  obtain ⟨g, rfl⟩ := hu
  exact ⟨_, rfl⟩

theorem tick_clock (s : State) (n : Nat) : (tick s n).clock = s.clock + n := rfl

/-- Where no firing is in progress and no SHED waits, passing clocks move the clock and the phase records of the regions. -/
theorem tick_idle (s : State) (n : Nat) (hf : ∀ x ∈ s.tiles.vals, x.fir = none)
    (hs : ∀ c ∈ s.chans.vals, ∀ b ∈ c.branches, b.shed = none) :
    ∃ g : Assoc Region, tick s n = { s with regions := g, clock := s.clock + n } := by
  simp only [tick, sliceTick_noFiring s _ hf, settleSheds_noShed s hs]
  obtain ⟨g, hg⟩ := countLoads_regions s ((s.regions.cells.filter (fun c => c.2.loads)).map (·.1)) (fun p => { p with load := p.load + n })
  exact ⟨g, by rw [hg]⟩

theorem quietTurn_tick {s : State} {n : Nat} (h : mayTick s n = true) : quietTurn s (.tick n) = tick s n := by
  simp [quietTurn, h]

/-- A turn that lets clocks pass, where they may. -/
theorem step_tick {s : State} {n : Nat} {rest : List Turn} (hp : s.power.powered = true) (h : s.schedule = .tick n :: rest) :
    step s = runStep (fun s => quietTurn s (.tick n)) { s with schedule := rest } :=
  step_of_prepare_done (awake_of_powered hp) (prepare_tick h)

/-- The step of a clock's passing answers the state `n` clocks later. -/
theorem runStep_tick_clock {s : State} {n : Nat} (hm : s.MemOk) (ht : mayTick s n = true) :
    ∃ t, runStep (fun s => quietTurn s (.tick n)) s = .next t ∧ t.clock = s.clock + n := by
  obtain ⟨t, hrun, -⟩ := runStep_next (fun s => quietTurn s (.tick n)) s
  refine ⟨t, hrun, ?_⟩
  rw [runStep_clock _ _ _ hrun, s.clearLog hm.2, quietTurn_tick ht, tick_clock]

/-- With no firing in progress and no SHED waiting it answers the same state but for the clock and the regions. -/
theorem runStep_tick_idle {s : State} {n : Nat} (hm : s.MemOk) (ht : mayTick s n = true) (hf : ∀ x ∈ s.tiles.vals, x.fir = none)
    (hs : ∀ c ∈ s.chans.vals, ∀ b ∈ c.branches, b.shed = none) :
    ∃ g : Assoc Region, runStep (fun s => quietTurn s (.tick n)) s = .next { s with regions := g, clock := s.clock + n } := by
  obtain ⟨g, hg⟩ := tick_idle s n hf hs
  have hq : quietTurn s (.tick n) = { s with regions := g, clock := s.clock + n } := (quietTurn_tick ht).trans hg
  refine ⟨g, ?_⟩
  rw [runStep_quiet _ _ hm.2 (by rw [hq]; exact hm.2), hq, ← hm.2]

/-- Settles O6, one turn of the schedule at a time: a command's and an event's clause is what `prepare` makes of the turn, the clock's is
the rule of `tick` under the frame of `runStep`, and without power `step` takes no turn. -/
theorem stepRunsCommandOrEvent : Obligations.StepRunsCommandOrEvent := by
  unfold Obligations.StepRunsCommandOrEvent
  intro s i r q n rest h u begun
  refine ⟨fun hp hsched hready hdec => ?command, fun hp hi hsched => ?event, fun hp hsched ht hm => ?tick, step_unpowered⟩
  case command =>
    exact step_of_prepare_run (awake_of_powered hp) ((prepare_command hsched).trans (beginCommand_run hready hdec))
  case event =>
    have ha : awake s = true := by
      rcases hp with hp | rfl
      · exact awake_of_powered hp
      · simp [awake, hsched]
    exact step_of_prepare_run ha (prepare_event hsched hi)
  case tick =>
    obtain ⟨t, hrun, hclock⟩ := runStep_tick_clock (s := u) hm ht
    refine ⟨t, (step_tick hp hsched).trans hrun, hclock, fun hf hs => ?_⟩
    obtain ⟨g, hidle⟩ := runStep_tick_idle (s := u) hm ht hf hs
    cases hrun.symm.trans hidle
    exact ⟨rfl, rfl, rfl, rfl⟩

end Sys2Proof.Machine
end
